-- ==== Sys2Proof/Config.lean ====
section
/-! DEFINITION. The implementation parameters of 00_scope.md R6. Those the document fixes are constants; the three
it leaves open, TSW, OUT_LATENCY and TICK_HZ, are constants without a body, so that whatever is proved holds for
every value of their types (log 5, log 7, log 6). -/

namespace Sys2Proof.Config

/-- The bits of a timestamp beyond the first: OPEN, a constant nothing in Lean can evaluate. Safe: log 5. -/
opaque tswBeyondFirst : Nat

/-- TSW, the width of a timestamp in bits: OPEN, at least 1 (R6, D7). Whatever is proved holds at every width; the
spec's default, 64, is one of them. Safe: log 5. -/
abbrev TSW : Nat := tswBeyondFirst + 1

/-- MARKER, the start marker (R6). -/
def marker : BitVec 8 := 0xAA#8

/-- PAYLOAD_LEN, the bytes after the marker (R6). -/
def payloadLen : Nat := 6

/-- FRAME_LEN, marker plus payload (R6). -/
def frameLen : Nat := 1 + payloadLen

/-- SUM_LEN, the bytes the checksum covers (R6). -/
def sumLen : Nat := 5

/-- CHANNELS (R6). -/
def channels : Nat := 2

/-- SCALE, the factor of the streaming sink, 2048/65536 (R6, R88). -/
def scaleFactor : Rat := 2048 / 65536

/-- BAUD, of the byte source outside the block; no rule depends on it (R6, R121). -/
def baud : Nat := 115200

/-- NOMINAL_RATE in Hz, metadata of the streaming outlet; no rule depends on it (R6, R87). -/
def nominalRate : Nat := 100

/-- OUT_LATENCY, clock cycles from a step to its pin-level outputs: OPEN (R6, R36, D6). A constant nothing in Lean
can evaluate; the spec's default, 0, is one of the values covered. Safe: log 7. -/
opaque outLatency : Nat

/-- TICK_HZ, ticks of the time source per second: OPEN, no default (R6, D7), and the spec gives it no type. A constant
nothing in Lean can evaluate. That it is a rational number, whole or fractional, is the model's choice (DESIGN CHOICE,
unsafe for an irrational rate: log 6). -/
opaque tickHz : Rat

end Sys2Proof.Config
end

