-- ==== Sys2Proof/Word.lean ====
section
/-! DEFINITION. The words of the block: bytes, timestamps, samples, totals; the synchronization state; the
inputs a host delivers (00_scope.md R15); the operation words of formats B, T and C (30_encoding.md R54). -/

namespace Sys2Proof

/-- A byte, bit 7 most significant (R8, R42). -/
abbrev Byte := BitVec 8

/-- A timestamp in ticks of the host's time source: `u<TSW>` (R23). -/
abbrev Time := BitVec Config.TSW

/-- A channel value, `i16`: sixteen bits whose value is their two's-complement reading `toInt` (R11, R35). -/
abbrev Sample := BitVec 16

/-- A total, `u64` (R26, R27). -/
abbrev Total := BitVec 64

/-- `st`, the closed state enumeration (R18). -/
inductive SyncState where
  | awaitingStart
  | readingPayload
  deriving DecidableEq, Repr

/-- One input event of the block (R15). -/
inductive Input where
  /-- Session start. -/
  | reset
  /-- One byte, with the time the host's time source shows when it is delivered. -/
  | byte (b : Byte) (now : Time)
  /-- No byte within the read timeout. -/
  | idle
  /-- The stop request. -/
  | stop
  /-- The byte source failed or was closed. -/
  | srcFail
  deriving DecidableEq, Repr

/-- An operation word in one of the three formats of R54, with the operands that arrive beside it. -/
inductive OpWord where
  /-- Format B: the input byte of a `Byte(b, now)` input. -/
  | b (data : Byte) (now : Time)
  /-- Format T: the sequence of a just-decoded sample; channels and arrival time pass beside it. -/
  | t (sequence : Byte) (ch1 ch2 : Sample) (arrivalTime : Time)
  /-- Format C: the control word `{rst, src_err, stop, rx_valid}`, `rst` being bit 3. -/
  | c (word : BitVec 4)
  deriving DecidableEq, Repr

/-- What of the state the selection of an operation reads (R49, R55): no total, no time, no sink. -/
structure Ctx where
  halted : Bool
  st : SyncState
  buf : List Byte
  exp : Option Byte
  deriving DecidableEq, Repr

/-- Why a word selects no operation of R55. -/
inductive Reject where
  /-- A byte in ReadingPayload with six or more bytes buffered: no row of R55 applies, and R24 says no
  run reaches such a state. -/
  | noSelectionRow
  /-- The control word 0001 offers a byte: the operation is the one the byte selects (R36). -/
  | byteOffered
  deriving DecidableEq, Repr

end Sys2Proof
end

