-- ==== Sys2Proof/Syntax.lean ====
section
/-! DEFINITION. The thirteen operations of 30_encoding.md R55, one constructor per row of spec/opcode_table.json,
with the operands that row names. The five buffered bytes of CHK.OK and CHK.ERR and the latched `ts` are state. -/

namespace Sys2Proof

/-- One operation of the block (R55). -/
inductive Instr where
  /-- SOF (R62): the byte is the marker itself; `now` is the time it arrives. -/
  | sof (now : Time)
  /-- SKIP (R63): `b` is any byte but the marker. -/
  | skip (b : Byte)
  /-- PUSH (R64): any byte. -/
  | push (b : Byte)
  /-- CHK.OK (R65): the sixth payload byte, equal to the checksum. -/
  | chkOk (b : Byte)
  /-- CHK.ERR (R66): the sixth payload byte, different from the checksum. -/
  | chkErr (b : Byte)
  /-- TRK.FIRST (R71). -/
  | trkFirst (sequence : Byte) (ch1 ch2 : Sample) (arrivalTime : Time)
  /-- TRK.SEQ (R72). -/
  | trkSeq (sequence : Byte) (ch1 ch2 : Sample) (arrivalTime : Time)
  /-- TRK.GAP (R73). -/
  | trkGap (sequence : Byte) (ch1 ch2 : Sample) (arrivalTime : Time)
  /-- RESET (R79). -/
  | reset
  /-- IDLE (R80). -/
  | idle
  /-- STOP (R81). -/
  | stop
  /-- SRCFAIL (R82). -/
  | srcFail
  /-- HOLD (R83). -/
  | hold
  deriving DecidableEq, Repr

end Sys2Proof
end

