-- ==== Sys2Proof/WellFormed.lean ====
section
/-! DEFINITION. What an operation's operands must satisfy whatever the state: SKIP's byte is not the marker
(40_decoder_ops.md R63). Every other operand takes every value (30_encoding.md R57). -/

namespace Sys2Proof

/-- The operands are ones the encoding admits. -/
def Instr.wellFormed : Instr → Bool
  | .sof _ => true
  | .skip b => b != Config.marker
  | .push _ => true
  | .chkOk _ => true
  | .chkErr _ => true
  | .trkFirst _ _ _ _ => true
  | .trkSeq _ _ _ _ => true
  | .trkGap _ _ _ _ => true
  | .reset => true
  | .idle => true
  | .stop => true
  | .srcFail => true
  | .hold => true

end Sys2Proof
end

