-- ==== Sys2Proof/Decode.lean ====
section
/-! DEFINITION. The checksum (00_scope.md R10); which operation an input or a word selects, total on every
byte and every control word (30_encoding.md R55, R57); the binding of a cycle's pins to inputs (10_state.md
R36); the encoder (R54, R59); the reading of a word of spec/opcode_table.json (log 12). -/

namespace Sys2Proof

/-- CKSUM (R10): the sum of the bytes modulo 256. Its argument has five bytes wherever a rule uses it. -/
def cksum (p : List Byte) : Byte :=
  BitVec.ofNat 8 (p.map BitVec.toNat).sum

/-- `CKSUM(buf[0..5])`: the half-open range, the first five bytes (R51, C3). -/
def bufSum (buf : List Byte) : Byte :=
  cksum (buf.take Config.sumLen)

/-- The condition on state and operands of an operation's row of R55, as the table's `condition` says it. -/
def selects (c : Ctx) : Instr → Bool
  | .sof _ => !c.halted && c.st == .awaitingStart
  | .skip b => !c.halted && c.st == .awaitingStart && b != Config.marker
  | .push _ => !c.halted && c.st == .readingPayload && Nat.ble c.buf.length 4
  | .chkOk b => !c.halted && c.st == .readingPayload && c.buf.length == 5 && b == bufSum c.buf
  | .chkErr b => !c.halted && c.st == .readingPayload && c.buf.length == 5 && b != bufSum c.buf
  | .trkFirst _ _ _ _ => c.exp == none
  | .trkSeq s _ _ _ => c.exp == some s
  | .trkGap s _ _ _ => c.exp != none && c.exp != some s
  | .reset => true
  | .idle => !c.halted
  | .stop => !c.halted
  | .srcFail => !c.halted
  | .hold => c.halted

/-- Rows 6 to 10 of R55: a byte while the session runs. -/
def decodeByte (c : Ctx) (b : Byte) (now : Time) : Except Reject Instr :=
  match c.st with
  | .awaitingStart => if b = Config.marker then .ok (.sof now) else .ok (.skip b)
  | .readingPayload =>
    if c.buf.length ≤ 4 then .ok (.push b)
    else if c.buf.length = 5 then
      if b = bufSum c.buf then .ok (.chkOk b) else .ok (.chkErr b)
    else .error .noSelectionRow

/-- Rows 1 to 10 of R55, top to bottom: the operation an input selects. -/
def decodeInput (c : Ctx) : Input → Except Reject Instr
  | .reset => .ok .reset
  | .byte b now => if c.halted then .ok .hold else decodeByte c b now
  | .idle => if c.halted then .ok .hold else .ok .idle
  | .stop => if c.halted then .ok .hold else .ok .stop
  | .srcFail => if c.halted then .ok .hold else .ok .srcFail

/-- Rows 11 to 13 of R55: the tracker operation a just-decoded sample selects. -/
def selectTracker (exp : Option Byte) (s : Byte) (ch1 ch2 : Sample) (arrivalTime : Time) : Instr :=
  match exp with
  | none => .trkFirst s ch1 ch2 arrivalTime
  | some e => if s = e then .trkSeq s ch1 ch2 arrivalTime else .trkGap s ch1 ch2 arrivalTime

/-- The format C rows of the table in selection order: RESET 1fpv, HOLD 0fpv, SRCFAIL 01pv, STOP 001v, IDLE
0000 (R59). The word 0001 offers a byte and is no operation by itself. -/
def decodeControl (c : Ctx) (w : BitVec 4) : Except Reject Instr :=
  if w.getLsbD 3 then .ok .reset
  else if c.halted then .ok .hold
  else if w.getLsbD 2 then .ok .srcFail
  else if w.getLsbD 1 then .ok .stop
  else if w.getLsbD 0 then .error .byteOffered
  else .ok .idle

/-- The operation a word selects, in any of the three formats (R54, R55). -/
def decode (c : Ctx) : OpWord → Except Reject Instr
  | .b data now => decodeInput c (.byte data now)
  | .t s ch1 ch2 at' => .ok (selectTracker c.exp s ch1 ch2 at')
  | .c w => decodeControl c w

/-- The inputs one clock cycle delivers (R36): `rst` over everything, then `src_err`, which discards the byte,
then the byte, then `stop`. -/
def pinInputs (w : BitVec 4) (rxData : Byte) (now : Time) : List Input :=
  if w.getLsbD 3 then [.reset]
  else if w.getLsbD 2 then [.srcFail]
  else if w.getLsbD 1 then
    if w.getLsbD 0 then [.byte rxData now, .stop] else [.stop]
  else if w.getLsbD 0 then [.byte rxData now] else [.idle]

/-- The word of an operation (R54, R59). An operation that does not sample `now` gets time 0 beside its byte;
HOLD, which every word but RESET's gives after the end, gets the idle word (DESIGN CHOICE, safe: log 13). -/
def encode : Instr → OpWord
  | .sof now => .b 0xAA#8 now
  | .skip b => .b b 0
  | .push b => .b b 0
  | .chkOk b => .b b 0
  | .chkErr b => .b b 0
  | .trkFirst s ch1 ch2 at' => .t s ch1 ch2 at'
  | .trkSeq s ch1 ch2 at' => .t s ch1 ch2 at'
  | .trkGap s ch1 ch2 at' => .t s ch1 ch2 at'
  | .reset => .c 0b1000#4
  | .idle => .c 0b0000#4
  | .stop => .c 0b0010#4
  | .srcFail => .c 0b0100#4
  | .hold => .c 0b0000#4

/-- The format letter of a word (R54). -/
def formatOf : OpWord → Char
  | .b _ _ => 'B'
  | .t _ _ _ _ => 'T'
  | .c _ => 'C'

/-- The `format` column of an operation's row of spec/opcode_table.json. -/
def rowFormat : Instr → Char
  | .sof _ => 'B'
  | .skip _ => 'B'
  | .push _ => 'B'
  | .chkOk _ => 'B'
  | .chkErr _ => 'B'
  | .trkFirst _ _ _ _ => 'T'
  | .trkSeq _ _ _ _ => 'T'
  | .trkGap _ _ _ _ => 'T'
  | .reset => 'C'
  | .idle => 'C'
  | .stop => 'C'
  | .srcFail => 'C'
  | .hold => 'C'

/-- The bits of a word. -/
def wordBits : OpWord → Nat
  | .b data _ => data.toNat
  | .t s _ _ _ => s.toNat
  | .c w => w.toNat

/-- The constant `match` and `mask` columns of an operation's row. CHK.OK and TRK.SEQ match a value held in the
state: for them no constant bit is fixed (R59). -/
def rowMatchMask : Instr → Nat × Nat
  | .sof _ => (0xAA, 0xFF)
  | .skip _ => (0, 0)
  | .push _ => (0, 0)
  | .chkOk _ => (0, 0)
  | .chkErr _ => (0, 0)
  | .trkFirst _ _ _ _ => (0, 0)
  | .trkSeq _ _ _ _ => (0, 0)
  | .trkGap _ _ _ _ => (0, 0)
  | .reset => (0x8, 0x8)
  | .idle => (0x0, 0xF)
  | .stop => (0x2, 0xE)
  | .srcFail => (0x4, 0xC)
  | .hold => (0x0, 0x8)

/-- What the selection reads right after reset (R34). -/
def resetCtx : Ctx :=
  { halted := false, st := .awaitingStart, buf := [], exp := none }

/-- The inputs a word of spec/opcode_table.json stands for. The table's words carry no mark of their format: a
value below 16 is read as a control word with rx_data 0, a greater one as an input byte, at time 0 (DESIGN
CHOICE, safe: log 12). -/
def tableInputs (nbits w : Nat) : List Input :=
  if nbits ≤ 8 ∧ w < 16 then pinInputs (BitVec.ofNat 4 w) 0 0
  else if nbits ≤ 8 ∧ w < 256 then [.byte (BitVec.ofNat 8 w) 0]
  else []

/-- The operation a word of spec/opcode_table.json selects as the first one after reset. -/
def decodeTableWord (nbits w : Nat) : Option Instr :=
  match tableInputs nbits w with
  | [] => none
  | inp :: _ =>
    match decodeInput resetCtx inp with
    | .ok i => some i
    | .error _ => none

end Sys2Proof
end

