-- ==== Sys2Proof/Machine/State.lean ====
section
/-! DEFINITION. The state record of 10_state.md R16, the events of 00_scope.md R15, the reasons a step can stop,
and the machine right after reset (R34). -/

namespace Sys2Proof.Machine

/-- The sample record carried by SampleDecoded (R75). -/
structure SampleRecord where
  sequence : Byte
  ch1 : Sample
  ch2 : Sample
  arrivalTime : Time
  interval : Time
  first : Bool
  totalLost : Total
  totalValid : Total
  deriving DecidableEq, Repr

/-- An output event (R15). -/
inductive Output where
  /-- A valid frame's record. -/
  | sampleDecoded (rec : SampleRecord)
  /-- The checksum diagnostic; it carries no value (R66, D17). -/
  | checksumError
  /-- The "lost N packets" diagnostic, 1 to 255 (R73). -/
  | lost (n : Byte)
  /-- The final summary: `total_valid`, `total_lost`, `fatal` (R81, R82). -/
  | summary (totalValid totalLost : Total) (fatal : Bool)
  deriving DecidableEq, Repr

/-- Why a step faults. The spec gives the block no fault (R15, R57); this one marks a state no run reaches. -/
inductive Fault where
  /-- Raised by `perform` for a byte in ReadingPayload with six or more bytes buffered, where no row of R55
  applies; R24 rules the state out. Safe: log 8. -/
  | noSuchPosition
  deriving DecidableEq, Repr

/-- Why a step is refused. -/
inductive Refusal where
  /-- Raised by `exec` for an operation that has no meaning yet; no arm does so. Safe. -/
  | notModelled (mnemonic : String)
  /-- Raised by `perform` for any input but Reset before the first RESET, whose state is unspecified (R107, D26,
  U2: refuse). Safe: log 4. -/
  | beforeFirstReset
  /-- Raised by a meaning applied to a state in which R55 does not select its operation; `perform` never asks
  for that. Safe: log 9. -/
  | notSelected (i : Instr)
  deriving DecidableEq, Repr

/-- The state: the nine elements of R16, then three fields of the model's own. -/
structure State where
  /-- The synchronization state (R18). -/
  st : SyncState
  /-- The payload buffer, first-arrived byte first (R19). -/
  buf : List Byte
  /-- The arrival-timestamp latch (R23). -/
  ts : Time
  /-- The expected counter (R25). -/
  exp : Option Byte
  /-- `total_valid` (R26). -/
  totalValid : Total
  /-- `total_lost` (R27). -/
  totalLost : Total
  /-- `prev_ts`, the previous arrival time (R28). -/
  prevTs : Time
  /-- The session has ended (R30). -/
  halted : Bool
  /-- The session ended because the byte source failed (R30). -/
  fatal : Bool
  /-- The model's own: a RESET has been performed (R107; log 4). -/
  started : Bool
  /-- The model's own: the inputs the host has yet to deliver, oldest first (R15; log 1). -/
  inputs : List Input
  /-- The model's own: the ordered outputs of the latest step (R9, R15; log 3). -/
  out : List Output
  deriving DecidableEq, Repr

/-- The machine right after reset (R34), with no input placed. -/
def State.reset : State :=
  { st := .awaitingStart
    buf := []
    ts := 0
    exp := none
    totalValid := 0
    totalLost := 0
    prevTs := 0
    halted := false
    fatal := false
    started := true
    inputs := []
    out := [] }

end Sys2Proof.Machine
end

