-- ==== Sys2Proof/Machine/Flags.lean ====
section
/-! DEFINITION. The integer arithmetic of 41_tracker_ops.md R78 that a flag or a total rests on, the one-bit facts
and strobes of 10_state.md R31, and the conditions of 60_exceptions.md R90 with their codes. Each arithmetic
result is computed exactly as an integer and then reduced. -/

namespace Sys2Proof.Machine

/-- INC8 (R12): the successor modulo 256. -/
def inc8 (s : Byte) : Byte :=
  BitVec.ofNat 8 (s.toNat + 1)

/-- GAP8 (R13): `(s - e) mod 256`. -/
def gap8 (s e : Byte) : Byte :=
  BitVec.ofInt 8 ((s.toNat : Int) - (e.toNat : Int))

/-- ADD64 (R14): `(a + n) mod 2^64`; the wrap is the spec's decision D14 (log 11). -/
def add64 (a : Total) (n : Nat) : Total :=
  BitVec.ofNat 64 (a.toNat + n)

/-- The inter-arrival interval (R74 sub-step b): `(arrival_time - prev_ts) mod 2^TSW`. -/
def intervalSince (arrivalTime prevTs : Time) : Time :=
  BitVec.ofInt Config.TSW ((arrivalTime.toNat : Int) - (prevTs.toNat : Int))

/-- The strobe `sample_valid` of a step's outputs (R31). -/
def sampleStrobe (out : List Output) : Bool :=
  out.any fun o => match o with
    | .sampleDecoded _ => true
    | .checksumError => false
    | .lost _ => false
    | .summary _ _ _ => false

/-- The strobe `cksum_err` (R31). -/
def checksumStrobe (out : List Output) : Bool :=
  out.any fun o => match o with
    | .sampleDecoded _ => false
    | .checksumError => true
    | .lost _ => false
    | .summary _ _ _ => false

/-- The strobe `lost_valid` (R31). -/
def lostStrobe (out : List Output) : Bool :=
  out.any fun o => match o with
    | .sampleDecoded _ => false
    | .checksumError => false
    | .lost _ => true
    | .summary _ _ _ => false

/-- The strobe `summary_valid` (R31). -/
def summaryStrobe (out : List Output) : Bool :=
  out.any fun o => match o with
    | .sampleDecoded _ => false
    | .checksumError => false
    | .lost _ => false
    | .summary _ _ _ => true

/-- `st` as one bit: AwaitingStart 0, ReadingPayload 1 (R18, D10). -/
def syncBit : SyncState → BitVec 1
  | .awaitingStart => 0#1
  | .readingPayload => 1#1

/-- The four conditions of the document's taxonomy (R90). -/
inductive Condition where
  | syncNoise
  | checksumFailure
  | sequenceGap
  | sourceUnavailable
  deriving DecidableEq, Repr

/-- The code of a condition (R90, D16). -/
def conditionCode : Condition → Nat
  | .syncNoise => 0
  | .checksumFailure => 1
  | .sequenceGap => 2
  | .sourceUnavailable => 3

/-- The condition an operation raises (R90, column "raised by"); CHK.OK raises one only through its tracker
operation. -/
def conditionOf : Instr → Option Condition
  | .sof _ => none
  | .skip _ => some .syncNoise
  | .push _ => none
  | .chkOk _ => none
  | .chkErr _ => some .checksumFailure
  | .trkFirst _ _ _ _ => none
  | .trkSeq _ _ _ _ => none
  | .trkGap _ _ _ _ => some .sequenceGap
  | .reset => none
  | .idle => none
  | .stop => none
  | .srcFail => some .sourceUnavailable
  | .hold => none

end Sys2Proof.Machine
end

