-- ==== Sys2Proof/Machine/Operands.lean ====
section
/-! DEFINITION. Operand assembly from a payload (30_encoding.md R50 to R52) and its inverse (R53); the fields of
a frame with their offsets (20_memory.md R39) and bits (R50); the names of the buffer positions (10_state.md R20). -/

namespace Sys2Proof.Machine

/-- S16 (R11): `v = hi * 256 + lo`, less 65536 where `v` is at least 0x8000, as a signed integer. -/
def s16Value (lo hi : Byte) : Int :=
  let v := hi.toNat * 256 + lo.toNat
  if 0x8000 ≤ v then (v : Int) - 65536 else (v : Int)

/-- S16 as the sixteen bits the block's record carries. -/
def s16 (lo hi : Byte) : Sample :=
  BitVec.ofInt 16 (s16Value lo hi)

/-- The three operands of a sample (R52). -/
structure FrameOperands where
  sequence : Byte
  ch1 : Sample
  ch2 : Sample
  deriving DecidableEq, Repr

/-- Operand assembly from the six payload bytes (R52); the checksum byte is no operand. A list of another length
is no payload. -/
def frameOperands : List Byte → Option FrameOperands
  | [counter, ch1Lo, ch1Hi, ch2Lo, ch2Hi, _checksum] =>
    some { sequence := counter, ch1 := s16 ch1Lo ch1Hi, ch2 := s16 ch2Lo ch2Hi }
  | _ => none

/-- Validity of a six-byte payload (R51). -/
def validPayload (p : List Byte) : Bool :=
  p.length == Config.payloadLen && p[5]? == some (bufSum p)

/-- The low byte of a channel value, `a mod 256` (R53). -/
def lowByte (a : Sample) : Byte :=
  BitVec.ofInt 8 (a.toInt % 256)

/-- The high byte of a channel value, `(a div 256) mod 256` with floor division (R53). -/
def highByte (a : Sample) : Byte :=
  BitVec.ofInt 8 (a.toInt / 256 % 256)

/-- The five bytes between the marker and the checksum of the frame for `(s, a, c)` (R53). -/
def frameBody (s : Byte) (a c : Sample) : List Byte :=
  [s, lowByte a, highByte a, lowByte c, highByte c]

/-- The seven bytes of the frame that carries sequence `s` and channel values `a` and `c` (R53). -/
def frameBytes (s : Byte) (a c : Sample) : List Byte :=
  Config.marker :: (frameBody s a c ++ [cksum (frameBody s a c)])

/-- The seven bytes of a frame whose last byte is off by `d` (R60). -/
def badFrameBytes (s : Byte) (a c : Sample) (d : Byte) : List Byte :=
  Config.marker :: (frameBody s a c ++ [BitVec.ofNat 8 ((cksum (frameBody s a c)).toNat + d.toNat)])

/-- The fields of the frame format F7, in arrival order (R50). -/
inductive FrameField where
  | marker
  | counter
  | ch1Lo
  | ch1Hi
  | ch2Lo
  | ch2Hi
  | checksum
  deriving DecidableEq, Repr

/-- A field's offset in the stream, counted from the marker (R39, R50). -/
def fieldOffset : FrameField → Nat
  | .marker => 0
  | .counter => 1
  | .ch1Lo => 2
  | .ch1Hi => 3
  | .ch2Lo => 4
  | .ch2Hi => 5
  | .checksum => 6

/-- A field's index in the payload buffer; the marker is not stored (R39). -/
def fieldIndex : FrameField → Option Nat
  | .marker => none
  | .counter => some 0
  | .ch1Lo => some 1
  | .ch1Hi => some 2
  | .ch2Lo => some 3
  | .ch2Hi => some 4
  | .checksum => some 5

/-- Whether the checksum covers a field (R39). -/
def fieldSummed : FrameField → Bool
  | .marker => false
  | .counter => true
  | .ch1Lo => true
  | .ch1Hi => true
  | .ch2Lo => true
  | .ch2Hi => true
  | .checksum => false

/-- The 56-bit picture `F = byte0 ‖ … ‖ byte6` (R50): the number whose digits in base 256 are the bytes, the
first-arrived byte most significant. -/
def framePicture (b0 b1 b2 b3 b4 b5 b6 : Byte) : BitVec 56 :=
  BitVec.ofNat 56
    ((((((b0.toNat * 256 + b1.toNat) * 256 + b2.toNat) * 256 + b3.toNat) * 256 + b4.toNat) * 256 + b5.toNat) * 256
      + b6.toNat)

/-- The lowest bit of a field in the picture: byte `k` is `F[55-8k : 48-8k]` (R50). -/
def fieldLow (f : FrameField) : Nat :=
  48 - 8 * fieldOffset f

end Sys2Proof.Machine
end

