-- ==== Sys2Proof/Machine/Ops.lean ====
section
/-! DEFINITION. The named operations on state: what the selection reads, the guard of an operation's row, emit,
clear, append, the tracker's common tail, session start, and the one way a session ends. A condition of
60_exceptions.md saves nothing and has no return (R97, R98), so there is no exception entry beside these. -/

namespace Sys2Proof.Machine

namespace State

/-- What the selection of an operation reads of the state (R49, R55). -/
def ctx (s : State) : Ctx :=
  { halted := s.halted, st := s.st, buf := s.buf, exp := s.exp }

/-- The position in the frame, the block's analogue of a program counter (R22). -/
def position (s : State) : SyncState × Nat :=
  (s.st, s.buf.length)

/-- `emit`: append to the ordered output list of the current step (R9). -/
def emit (s : State) (o : Output) : State :=
  { s with out := s.out ++ [o] }

/-- The outputs of the step before are gone: they are results of that step, not state (R17, R94). -/
def clearOut (s : State) : State :=
  { s with out := [] }

/-- The append, the only store of the block (R9, R69). -/
def append (s : State) (b : Byte) : State :=
  { s with buf := s.buf ++ [b] }

/-- `st <- target`. -/
def goto (s : State) (target : SyncState) : State :=
  { s with st := target }

/-- Accepting a marker: clear the buffer, latch the time, go to ReadingPayload (R62). -/
def acceptMarker (s : State) (now : Time) : State :=
  { s with buf := [], ts := now, st := .readingPayload }

/-- `exp <- Some(INC8(sequence))` (R71 to R73). -/
def expectAfter (s : State) (sequence : Byte) : State :=
  { s with exp := some (inc8 sequence) }

/-- `total_lost <- ADD64(total_lost, gap); emit Lost(gap)` (R73 sub-steps 2 and 3). -/
def countLost (s : State) (gap : Byte) : State :=
  emit { s with totalLost := add64 s.totalLost gap.toNat } (.lost gap)

/-- The record of R75, with the totals after the operation. -/
def sampleRecord (s : State) (sequence : Byte) (ch1 ch2 : Sample) (arrivalTime : Time) (first : Bool) :
    SampleRecord :=
  { sequence := sequence
    ch1 := ch1
    ch2 := ch2
    arrivalTime := arrivalTime
    interval := intervalSince arrivalTime s.prevTs
    first := first
    totalLost := s.totalLost
    totalValid := add64 s.totalValid 1 }

/-- The common tail of the tracker operations (R74): count the frame, compute the interval from the old
`prev_ts`, write `prev_ts`, emit the record. -/
def acceptSample (s : State) (sequence : Byte) (ch1 ch2 : Sample) (arrivalTime : Time) (first : Bool) : State :=
  emit { s with totalValid := add64 s.totalValid 1, prevTs := arrivalTime }
    (.sampleDecoded (s.sampleRecord sequence ch1 ch2 arrivalTime first))

/-- Session start: the nine elements to their values of R34 (R79). The host's pending inputs are not the
block's and stay. -/
def startSession (s : State) : State :=
  { s with
    st := .awaitingStart
    buf := []
    ts := 0
    exp := none
    totalValid := 0
    totalLost := 0
    prevTs := 0
    halted := false
    fatal := false
    started := true }

/-- The end of a session (R81, R82): a partial frame is dropped, `halted` is set, a summary is emitted; a failed
source also sets `fatal`. -/
def endSession (s : State) (failed : Bool) : State :=
  emit { s with st := .awaitingStart, halted := true, fatal := s.fatal || failed }
    (.summary s.totalValid s.totalLost failed)

end State

/-- An operation answers `t` where R55 selects it in `s`; elsewhere the spec gives it no meaning (log 9). -/
def whenSelected (i : Instr) (s t : State) : Host.Outcome State Fault Refusal :=
  if selects s.ctx i then .next t else .refused (.notSelected i)

end Sys2Proof.Machine
end

