-- ==== Sys2Proof/Machine/Tracker.lean ====
section
/-! DEFINITION. The Loss Tracker: TRK.FIRST, TRK.SEQ, TRK.GAP (41_tracker_ops.md R71 to R73), and the tracker
operation of a CHK.OK step (40_decoder_ops.md R65 sub-step 4). -/

namespace Sys2Proof.Machine

/-- TRK.FIRST (R71). -/
def execTrkFirst (sequence : Byte) (ch1 ch2 : Sample) (arrivalTime : Time) (s : State) :
    Host.Outcome State Fault Refusal :=
  whenSelected (.trkFirst sequence ch1 ch2 arrivalTime) s
    ((s.expectAfter sequence).acceptSample sequence ch1 ch2 arrivalTime true)

/-- TRK.SEQ (R72): the successor of the expected counter, which equals the sequence. -/
def execTrkSeq (sequence : Byte) (ch1 ch2 : Sample) (arrivalTime : Time) (s : State) :
    Host.Outcome State Fault Refusal :=
  match s.exp with
  | none => .refused (.notSelected (.trkSeq sequence ch1 ch2 arrivalTime))
  | some e =>
    whenSelected (.trkSeq sequence ch1 ch2 arrivalTime) s
      ((s.expectAfter e).acceptSample sequence ch1 ch2 arrivalTime false)

/-- TRK.GAP (R73): the gap is counted and reported before the sample. -/
def execTrkGap (sequence : Byte) (ch1 ch2 : Sample) (arrivalTime : Time) (s : State) :
    Host.Outcome State Fault Refusal :=
  match s.exp with
  | none => .refused (.notSelected (.trkGap sequence ch1 ch2 arrivalTime))
  | some e =>
    whenSelected (.trkGap sequence ch1 ch2 arrivalTime) s
      (((s.countLost (gap8 sequence e)).expectAfter sequence).acceptSample
        sequence ch1 ch2 arrivalTime false)

/-- The tracker operation R55 rows 11 to 13 select for `(exp, sequence)`. -/
def trackSample (o : FrameOperands) (arrivalTime : Time) (s : State) : Host.Outcome State Fault Refusal :=
  match s.exp with
  | none => execTrkFirst o.sequence o.ch1 o.ch2 arrivalTime s
  | some e =>
    if o.sequence = e then execTrkSeq o.sequence o.ch1 o.ch2 arrivalTime s
    else execTrkGap o.sequence o.ch1 o.ch2 arrivalTime s

end Sys2Proof.Machine
end

