-- ==== Sys2Proof/Machine/Decoder.lean ====
section
/-! DEFINITION. The Frame Decoder: SOF, SKIP, PUSH, CHK.OK, CHK.ERR (40_decoder_ops.md R62 to R66). -/

namespace Sys2Proof.Machine

/-- SOF (R62). -/
def execSof (now : Time) (s : State) : Host.Outcome State Fault Refusal :=
  whenSelected (.sof now) s (s.acceptMarker now)

/-- SKIP (R63): no state element changes. -/
def execSkip (b : Byte) (s : State) : Host.Outcome State Fault Refusal :=
  whenSelected (.skip b) s s

/-- PUSH (R64). -/
def execPush (b : Byte) (s : State) : Host.Outcome State Fault Refusal :=
  whenSelected (.push b) s (s.append b)

/-- CHK.OK (R65): append, assemble the operands, return to AwaitingStart, then the tracker operation with the
latched time. -/
def execChkOk (b : Byte) (s : State) : Host.Outcome State Fault Refusal :=
  if selects s.ctx (.chkOk b) then
    match frameOperands (s.append b).buf with
    | some o => trackSample o s.ts ((s.append b).goto .awaitingStart)
    | none => .refused (.notSelected (.chkOk b))
  else .refused (.notSelected (.chkOk b))

/-- CHK.ERR (R66): append, return to AwaitingStart, report; the tracker does not run. -/
def execChkErr (b : Byte) (s : State) : Host.Outcome State Fault Refusal :=
  whenSelected (.chkErr b) s (((s.append b).goto .awaitingStart).emit .checksumError)

end Sys2Proof.Machine
end

