-- ==== Sys2Proof/Machine/System.lean ====
section
/-! DEFINITION. The system operations RESET, IDLE, STOP, SRCFAIL, HOLD (42_system_ops.md R79 to R83). -/

namespace Sys2Proof.Machine

/-- RESET (R79), in any state. -/
def execReset (s : State) : Host.Outcome State Fault Refusal :=
  whenSelected .reset s s.startSession

/-- IDLE (R80): no state element changes. -/
def execIdle (s : State) : Host.Outcome State Fault Refusal :=
  whenSelected .idle s s

/-- STOP (R81). -/
def execStop (s : State) : Host.Outcome State Fault Refusal :=
  whenSelected .stop s (s.endSession false)

/-- SRCFAIL (R82). -/
def execSrcFail (s : State) : Host.Outcome State Fault Refusal :=
  whenSelected .srcFail s (s.endSession true)

/-- HOLD (R83): no state element changes. -/
def execHold (s : State) : Host.Outcome State Fault Refusal :=
  whenSelected .hold s s

end Sys2Proof.Machine
end

