-- ==== Sys2Proof/Machine/Dispatch.lean ====
section
/-! DEFINITION. One arm per operation of 30_encoding.md R55. -/

namespace Sys2Proof.Machine

def exec (i : Instr) (s : State) : Host.Outcome State Fault Refusal :=
  match i with
  | .sof now => Sys2Proof.Machine.execSof now s
  | .skip b => Sys2Proof.Machine.execSkip b s
  | .push b => Sys2Proof.Machine.execPush b s
  | .chkOk b => Sys2Proof.Machine.execChkOk b s
  | .chkErr b => Sys2Proof.Machine.execChkErr b s
  | .trkFirst sequence ch1 ch2 arrivalTime => Sys2Proof.Machine.execTrkFirst sequence ch1 ch2 arrivalTime s
  | .trkSeq sequence ch1 ch2 arrivalTime => Sys2Proof.Machine.execTrkSeq sequence ch1 ch2 arrivalTime s
  | .trkGap sequence ch1 ch2 arrivalTime => Sys2Proof.Machine.execTrkGap sequence ch1 ch2 arrivalTime s
  | .reset => Sys2Proof.Machine.execReset s
  | .idle => Sys2Proof.Machine.execIdle s
  | .stop => Sys2Proof.Machine.execStop s
  | .srcFail => Sys2Proof.Machine.execSrcFail s
  | .hold => Sys2Proof.Machine.execHold s

end Sys2Proof.Machine
end

