-- ==== Sys2Proof/Machine/Session.lean ====
section
/-! DEFINITION. One step of 00_scope.md R15 on an input the host delivers, the host's next input, and a run as
the fold of the step over a sequence of inputs. -/

namespace Sys2Proof.Machine

/-- The operation an input selects is performed (R55). Before the first RESET only Reset is taken (R107; log 4). -/
def perform (inp : Input) (s : State) : Host.Outcome State Fault Refusal :=
  if s.started || inp == .reset then
    match decodeInput s.ctx inp with
    | .ok i => exec i s
    | .error _ => .fault .noSuchPosition
  else .refused .beforeFirstReset

/-- One step of R15: the outputs of the step before are gone (R17, R94), then the input is performed. -/
def deliver (inp : Input) (s : State) : Host.Outcome State Fault Refusal :=
  perform inp s.clearOut

/-- The host's next input; a host with nothing left to deliver reports an idle line (R46, R101; DEDUCED, log 2). -/
def nextInput (s : State) : Input :=
  match s.inputs with
  | [] => .idle
  | inp :: _ => inp

/-- The next input is consumed: each is seen once, in order (R37). -/
def consume (s : State) : State :=
  { s with inputs := s.inputs.tail }

/-- A run: the fold of the step over the inputs, with every output in order (R15, R47). -/
def runInputs (s : State) : List Input → Host.Outcome (State × List Output) Fault Refusal
  | [] => .next (s, [])
  | inp :: rest =>
    match deliver inp s with
    | .next t =>
      match runInputs t rest with
      | .next (u, outs) => .next (u, t.out ++ outs)
      | .fault r => .fault r
      | .refused r => .refused r
    | .fault r => .fault r
    | .refused r => .refused r

/-- A word of spec/opcode_table.json placed as the host's next inputs (log 12). -/
def placeTableWord (s : State) (nbits w : Nat) : State :=
  { s with inputs := tableInputs nbits w ++ s.inputs }

end Sys2Proof.Machine
end

