-- ==== Sys2Proof/Machine/Pins.lean ====
section
/-! DEFINITION. The pin-level shell of 10_state.md R35 and R36: the input pins of one clock cycle, the inputs they
deliver, the output ports, and a run of cycles whose strobes come OUT_LATENCY cycles late. No semantic rule depends
on it (R7). -/

namespace Sys2Proof.Machine

/-- The input ports in one cycle (R35); `clk` is the cycle itself. -/
structure Pins where
  rst : Bool
  srcErr : Bool
  stop : Bool
  rxValid : Bool
  rxData : Byte
  now : Time
  deriving DecidableEq, Repr

/-- The control word `{rst, src_err, stop, rx_valid}`, `rst` most significant (R36). -/
def controlWord (p : Pins) : BitVec 4 :=
  BitVec.ofBool p.rst ++ BitVec.ofBool p.srcErr ++ BitVec.ofBool p.stop ++ BitVec.ofBool p.rxValid

/-- The pins of a cycle that delivers exactly one input (R36). -/
def pinsOf : Input → Pins
  | .reset => { rst := true, srcErr := false, stop := false, rxValid := false, rxData := 0, now := 0 }
  | .byte b now => { rst := false, srcErr := false, stop := false, rxValid := true, rxData := b, now := now }
  | .idle => { rst := false, srcErr := false, stop := false, rxValid := false, rxData := 0, now := 0 }
  | .stop => { rst := false, srcErr := false, stop := true, rxValid := false, rxData := 0, now := 0 }
  | .srcFail => { rst := false, srcErr := true, stop := false, rxValid := false, rxData := 0, now := 0 }

/-- One clock cycle: the step function is applied to the cycle's inputs in order; the state's `out` holds the
outputs of the whole cycle (R36; log 19). -/
def cycle (p : Pins) (s : State) : Host.Outcome State Fault Refusal :=
  match runInputs s (pinInputs (controlWord p) p.rxData p.now) with
  | .next (t, outs) => .next { t with out := outs }
  | .fault r => .fault r
  | .refused r => .refused r

/-- The output ports (R35). A data port whose strobe is not asserted carries nothing that has a meaning: `none`
(DESIGN CHOICE, safe: log 16). -/
structure Ports where
  rxReady : Bool
  sync : BitVec 1
  sampleValid : Bool
  sample : Option SampleRecord
  cksumErr : Bool
  lostValid : Bool
  lostN : Option Byte
  totalValid : Total
  totalLost : Total
  summaryValid : Bool
  halted : Bool
  fatal : Bool
  deriving DecidableEq, Repr

/-- The record on the `sample_*` ports: the one SampleDecoded of the outputs. -/
def sampleOf : List Output → Option SampleRecord
  | [] => none
  | .sampleDecoded r :: _ => some r
  | .checksumError :: rest => sampleOf rest
  | .lost _ :: rest => sampleOf rest
  | .summary _ _ _ :: rest => sampleOf rest

/-- The number on `lost_n`: the one Lost of the outputs. -/
def lostOf : List Output → Option Byte
  | [] => none
  | .lost n :: _ => some n
  | .sampleDecoded _ :: rest => lostOf rest
  | .checksumError :: rest => lostOf rest
  | .summary _ _ _ :: rest => lostOf rest

/-- The values on the totals ports while the strobes show some outputs: those of a Summary among them ("the totals
ports carry its values", R35), else the two totals of the state. -/
def totalsShown (s : State) : List Output → Total × Total
  | [] => (s.totalValid, s.totalLost)
  | .summary totalValid totalLost _ :: _ => (totalValid, totalLost)
  | .sampleDecoded _ :: rest => totalsShown s rest
  | .checksumError :: rest => totalsShown s rest
  | .lost _ :: rest => totalsShown s rest

/-- The output ports while the strobes show the outputs `shown` (R35): the byte input is never refused, the totals
and flags are always readable, each strobe stands for its event, and beside `summary_valid` the totals ports carry the
summary's values. `s` is the state AFTER the cycle's inputs: that `sync`, the totals (where no summary is shown),
`halted` and `fatal` show the state after the clock edge that ends the cycle, and not the state before it, is the
model's choice (DESIGN CHOICE, unsafe: log 22). -/
def portsShowing (s : State) (shown : List Output) : Ports :=
  { rxReady := true
    sync := syncBit s.st
    sampleValid := sampleStrobe shown
    sample := sampleOf shown
    cksumErr := checksumStrobe shown
    lostValid := lostStrobe shown
    lostN := lostOf shown
    totalValid := (totalsShown s shown).1
    totalLost := (totalsShown s shown).2
    summaryValid := summaryStrobe shown
    halted := s.halted
    fatal := s.fatal }

/-- The ports of a cycle with the outputs that cycle caused: what OUT_LATENCY 0, the spec's default, shows (R36). The
state ports show the state after the cycle, the model's choice (log 22). -/
def ports (s : State) : Ports :=
  portsShowing s s.out

/-- The states after each cycle of a run of cycles, in order. -/
def runCycles (s : State) : List Pins → Host.Outcome (List State) Fault Refusal
  | [] => .next []
  | p :: rest =>
    match cycle p s with
    | .next t =>
      match runCycles t rest with
      | .next after => .next (t :: after)
      | .fault r => .fault r
      | .refused r => .refused r
    | .fault r => .fault r
    | .refused r => .refused r

/-- The outputs on the strobes in cycle `k`: those of the cycle `latency` cycles earlier, none before there is one
(R36). -/
def shownAt (latency : Nat) (outs : List (List Output)) (k : Nat) : List Output :=
  if k < latency then [] else (outs[k - latency]?).getD []

/-- The output ports in cycle `k` of a run, for the states after its cycles and a given latency. The strobes and what
they qualify are delayed (R36), a summary's totals with them; the state ports are not (DESIGN CHOICE, unsafe: log 22). -/
def portsAt (latency : Nat) (after : List State) (k : Nat) : Option Ports :=
  (after[k]?).map fun t => portsShowing t (shownAt latency (after.map State.out) k)

/-- The output ports in cycle `k` at the implementation's OUT_LATENCY (R6, R36). -/
def pinPorts (after : List State) (k : Nat) : Option Ports :=
  portsAt Config.outLatency after k

end Sys2Proof.Machine
end

