-- ==== Sys2Proof/Machine/RegForm.lean ====
section
/-! DEFINITION. The register-level forms of `buf` and `exp` that 10_state.md R21 and R25 permit beside the
normative list and option (D11): six byte registers with a count, a valid bit with a value. The machine does not
use them; the obligations say they show the same thing (log 18). -/

namespace Sys2Proof.Machine

/-- Registers `b0` to `b5` and the count `cnt` (R21). -/
structure RegBuf where
  regs : Vector Byte 6
  cnt : Fin 7
  deriving DecidableEq, Repr

/-- The list the registers stand for: `buf[i] = b<i>` for `i < cnt`. -/
def regBufList (r : RegBuf) : List Byte :=
  r.regs.toList.take r.cnt.val

/-- Clear: `cnt <- 0`; the byte registers keep what they hold (R21). -/
def regBufClear (r : RegBuf) : RegBuf :=
  { r with cnt := 0 }

/-- Append: `b<cnt> <- byte; cnt <- cnt + 1` (R21); a full buffer is left as it is, no rule appends to one. -/
def regBufAppend (r : RegBuf) (b : Byte) : RegBuf :=
  if h : r.cnt.val < 6 then
    { regs := r.regs.set r.cnt.val b h, cnt := ⟨r.cnt.val + 1, by omega⟩ }
  else r

/-- The register form of `exp` (R25). -/
structure RegExp where
  expValid : Bool
  expVal : Byte
  deriving DecidableEq, Repr

/-- The option the register form stands for; `exp_val` is not read while `exp_valid` is 0. -/
def regExpOption (r : RegExp) : Option Byte :=
  if r.expValid then some r.expVal else none

end Sys2Proof.Machine
end

