-- ==== Sys2Proof/Machine/Sink.lean ====
section
/-! DEFINITION. The sink boundary (43_sink_boundary.md R85 to R89): pure functions of the record, outside the
block. They change no state element. -/

namespace Sys2Proof.Machine

/-- SCALE (R88): `v * 2048 / 65536`, as the exact number the 32-bit float holds (DEDUCED, safe: log 14). -/
def scale (v : Sample) : Rat :=
  (v.toInt : Rat) * Config.scaleFactor

/-- What ConsoleSink shows (R86): raw counts, the interval in ticks, the cumulative loss count. -/
structure ConsoleFields where
  sequence : Byte
  ch1 : Int
  ch2 : Int
  interval : Time
  totalLost : Total
  deriving DecidableEq, Repr

/-- The fields ConsoleSink takes from the record, unscaled (R86). -/
def consoleFields (r : SampleRecord) : ConsoleFields :=
  { sequence := r.sequence
    ch1 := r.ch1.toInt
    ch2 := r.ch2.toInt
    interval := r.interval
    totalLost := r.totalLost }

/-- The number of milliseconds the host shows for an interval (R74, D8): `interval * 1000 / TICK_HZ`, exact
(DEDUCED, safe: log 15; the type of the rate: log 6). -/
def intervalMillis (interval : Time) : Rat :=
  (interval.toNat : Rat) * 1000 / Config.tickHz

/-- What StreamSink publishes (R87, R103): `[channel1, channel2]`, scaled, tagged with the host's high-resolution
timestamp. Which clock it is read from, its width and its resolution are open (N3, N5, R100); `rec.arrival_time` is
offered and the choice is the host's (D30). So the timestamp is an argument of any type `τ`, `Time` being one
(DESIGN CHOICE, safe: log 23). -/
def streamPublication {τ : Type} (r : SampleRecord) (timestamp : τ) : List Rat × τ :=
  ([scale r.ch1, scale r.ch2], timestamp)

end Sys2Proof.Machine
end

