-- ==== Sys2Proof/Machine/Stream.lean ====
section
/-! DEFINITION. The stream notation of 30_encoding.md R60: directives and the inputs they expand to. -/

namespace Sys2Proof.Machine

/-- One directive of the stream notation (R60). -/
inductive Directive where
  | reset
  | time (t : Time)
  | byte (bs : List Byte)
  | frame (s : Byte) (a c : Sample)
  /-- `d` is 1 to 255. -/
  | badframe (s : Byte) (a c : Sample) (d : Byte)
  | idle (n : Nat)
  | stop
  | srcfail
  | seq (ss : List Byte)
  deriving DecidableEq, Repr

/-- `.badframe` takes a `d` in 1..255 (R60). -/
def directiveOk : Directive → Bool
  | .badframe _ _ _ d => d != 0
  | .reset => true
  | .time _ => true
  | .byte _ => true
  | .frame _ _ _ => true
  | .idle _ => true
  | .stop => true
  | .srcfail => true
  | .seq _ => true

/-- One Byte input per byte, in order, all at one time. -/
def byteInputs (now : Time) (bs : List Byte) : List Input :=
  bs.map fun b => .byte b now

/-- The inputs a listing expands to, from the time in force (R60). -/
def expandFrom (now : Time) : List Directive → List Input
  | [] => []
  | .reset :: rest => .reset :: expandFrom now rest
  | .time t :: rest => expandFrom t rest
  | .byte bs :: rest => byteInputs now bs ++ expandFrom now rest
  | .frame s a c :: rest => byteInputs now (frameBytes s a c) ++ expandFrom now rest
  | .badframe s a c d :: rest => byteInputs now (badFrameBytes s a c d) ++ expandFrom now rest
  | .idle n :: rest => List.replicate n .idle ++ expandFrom now rest
  | .stop :: rest => .stop :: expandFrom now rest
  | .srcfail :: rest => .srcFail :: expandFrom now rest
  | .seq ss :: rest => ss.flatMap (fun s => byteInputs now (frameBytes s 0 0)) ++ expandFrom now rest

/-- The inputs of a whole listing; the time is 0 until the first `.time` (R60). -/
def expand (p : List Directive) : List Input :=
  expandFrom 0 p

end Sys2Proof.Machine
end

