-- ==== Sys2Proof/Safety.lean ====
section
/-! DEFINITION. What counts as a safe state and a safe step, in the terms the statements use: the invariant of
10_state.md R24, the output lists of 60_exceptions.md R96, what two states must share for the decoder to act alike
(20_memory.md R49), and counts over inputs and outputs. -/

namespace Sys2Proof.Machine

/-- R24: the legal positions. (a) in ReadingPayload at most five bytes are buffered; (b) in AwaitingStart none or
six are, or, only after a STOP or SRCFAIL that dropped a partial frame, up to five; (c) never more than six. -/
def positionOk (s : State) : Prop :=
  (s.st = .readingPayload → s.buf.length ≤ 5) ∧
  (s.st = .awaitingStart → s.buf.length = 0 ∨ s.buf.length = 6 ∨ (s.buf.length ≤ 5 ∧ s.halted = true)) ∧
  s.buf.length ≤ 6

/-- The session flags and LossState agree (R25, R30, R34): an ended session awaits nothing, only an ended session
is fatal, and before the first valid frame LossState has its reset values. -/
def sessionOk (s : State) : Prop :=
  (s.halted = true → s.st = .awaitingStart) ∧
  (s.fatal = true → s.halted = true) ∧
  (s.exp = none → s.totalValid = 0 ∧ s.totalLost = 0 ∧ s.prevTs = 0) ∧
  (s.st = .awaitingStart → s.buf = [] → s.halted = false → s.exp = none ∧ s.ts = 0)

/-- The invariant of a run: the session has begun, and the two conditions above hold. -/
def inv (s : State) : Prop :=
  s.started = true ∧ positionOk s ∧ sessionOk s

/-- The possible output lists of a step (R96 d), a reported gap being 1 to 255 (R15). -/
def outputsOk : List Output → Bool
  | [] => true
  | [.checksumError] => true
  | [.sampleDecoded _] => true
  | [.lost n, .sampleDecoded _] => n != 0
  | [.summary _ _ _] => true
  | _ => false

/-- LossState is the same in both states (R29). -/
def sameLoss (s t : State) : Prop :=
  t.exp = s.exp ∧ t.totalValid = s.totalValid ∧ t.totalLost = s.totalLost ∧ t.prevTs = s.prevTs

/-- The Frame Decoder's elements are the same in both states (R16). -/
def sameDecoder (s t : State) : Prop :=
  t.st = s.st ∧ t.buf = s.buf ∧ t.ts = s.ts

/-- The session flags are the same in both states, and so are the model's own `started` and `inputs`. -/
def sameSession (s t : State) : Prop :=
  t.halted = s.halted ∧ t.fatal = s.fatal ∧ t.started = s.started ∧ t.inputs = s.inputs

/-- What the classification of a byte depends on is the same in both states (R49). -/
def sameClassification (s t : State) : Prop :=
  t.st = s.st ∧ t.buf = s.buf ∧ t.halted = s.halted ∧ t.started = s.started

/-- Two inputs that differ at most in the time a byte arrives. -/
def sameButTime : Input → Input → Bool
  | .reset, .reset => true
  | .byte a _, .byte b _ => a == b
  | .idle, .idle => true
  | .stop, .stop => true
  | .srcFail, .srcFail => true
  | _, _ => false

/-- A byte or an idle report: an input that neither starts nor ends a session. -/
def isStream : Input → Bool
  | .byte _ _ => true
  | .idle => true
  | .reset => false
  | .stop => false
  | .srcFail => false

/-- The bytes of a sequence of inputs, in order. -/
def bytesOf : List Input → List Byte
  | [] => []
  | .byte b _ :: rest => b :: bytesOf rest
  | .reset :: rest => bytesOf rest
  | .idle :: rest => bytesOf rest
  | .stop :: rest => bytesOf rest
  | .srcFail :: rest => bytesOf rest

/-- The records of the SampleDecoded events, in order. -/
def recordsOf : List Output → List SampleRecord
  | [] => []
  | .sampleDecoded r :: rest => r :: recordsOf rest
  | .checksumError :: rest => recordsOf rest
  | .lost _ :: rest => recordsOf rest
  | .summary _ _ _ :: rest => recordsOf rest

/-- The gaps of the Lost events, in order. -/
def gapsOf : List Output → List Byte
  | [] => []
  | .lost n :: rest => n :: gapsOf rest
  | .sampleDecoded _ :: rest => gapsOf rest
  | .checksumError :: rest => gapsOf rest
  | .summary _ _ _ :: rest => gapsOf rest

/-- How many Summary events there are. -/
def summaryCount : List Output → Nat
  | [] => 0
  | .summary _ _ _ :: rest => summaryCount rest + 1
  | .sampleDecoded _ :: rest => summaryCount rest
  | .checksumError :: rest => summaryCount rest
  | .lost _ :: rest => summaryCount rest

/-- How many ChecksumError events there are. -/
def checksumErrorCount : List Output → Nat
  | [] => 0
  | .checksumError :: rest => checksumErrorCount rest + 1
  | .sampleDecoded _ :: rest => checksumErrorCount rest
  | .lost _ :: rest => checksumErrorCount rest
  | .summary _ _ _ :: rest => checksumErrorCount rest

end Sys2Proof.Machine
end

