-- ==== Sys2Proof/Certificates/Slice0/Obligations.lean ====
section
/-! DEFINITION. The statements for the provers. Each docstring names the rule of spec/ it formalises; a clause that
rests on a decision or a derivation the spec marks as its own, or on a choice of the model, says so. -/

open Sys2Proof Sys2Proof.Machine

/-! ### Pure functions -/

/-- R10. The checksum of five bytes is their sum modulo 256; the sum before reduction is at most 1275; the marker is
not summed. -/
def Obligations.ChecksumIsSumModulo256 : Prop :=
  (∀ a b c d e : Byte,
    (cksum [a, b, c, d, e]).toNat = (a.toNat + b.toNat + c.toNat + d.toNat + e.toNat) % 256 ∧
    a.toNat + b.toNat + c.toNat + d.toNat + e.toNat ≤ 1275) ∧
  (∀ (q : Byte) (a c : Sample),
    (frameBytes q a c).getLast? = some (cksum (((frameBytes q a c).drop 1).take 5))) ∧
  cksum [0x01, 0x00, 0x00, 0x00, 0x00] = 0x01#8 ∧
  cksum [0xFF, 0xFF, 0xFF, 0xFF, 0xFF] = 0xFB#8

/-- R11. Signed reconstruction: `v = hi * 256 + lo`, less 65536 where `v` is at least 0x8000; the same as the
two's-complement reading of `hi ‖ lo`; the document's three examples. -/
def Obligations.SignedReconstructionOfAChannel : Prop :=
  (∀ lo hi : Byte,
    (s16 lo hi).toInt =
      (if 0x8000 ≤ hi.toNat * 256 + lo.toNat then ((hi.toNat * 256 + lo.toNat : Nat) : Int) - 65536
       else ((hi.toNat * 256 + lo.toNat : Nat) : Int)) ∧
    -32768 ≤ (s16 lo hi).toInt ∧ (s16 lo hi).toInt ≤ 32767 ∧
    s16 lo hi = hi ++ lo) ∧
  (s16 0xFF 0xFF).toInt = -1 ∧ (s16 0x00 0x80).toInt = -32768 ∧ (s16 0xFF 0x7F).toInt = 32767

/-- R12. The successor of a sequence number wraps at 256. -/
def Obligations.SequenceSuccessorWraps : Prop :=
  (∀ s : Byte, (inc8 s).toNat = (s.toNat + 1) % 256) ∧ inc8 255#8 = 0#8

/-- R13. The gap is `(s - e) mod 256`, non-negative, and 0 exactly when the two agree. -/
def Obligations.GapIsWrapAroundDistance : Prop :=
  (∀ s e : Byte,
    ((gap8 s e).toNat : Int) = ((s.toNat : Int) - (e.toNat : Int)) % 256 ∧
    (gap8 s e = 0 ↔ s = e)) ∧
  gap8 8 7 = 1 ∧ gap8 2 254 = 4 ∧ gap8 5 6 = 255

/-- 00_scope.md section 6 (ADD64) and 92_eei_decisions.md D14: the totals wrap modulo 2^64, the spec's own choice
(log 11); below the wrap the addition is exact. -/
def Obligations.TotalsWrapModulo64Bits : Prop :=
  ∀ (a : Total) (n : Nat),
    (add64 a n).toNat = (a.toNat + n) % 2 ^ 64 ∧
    (a.toNat + n < 2 ^ 64 → (add64 a n).toNat = a.toNat + n)

/-- 41_tracker_ops.md section 3 (the tail) and 70_reset_and_hazards.md section 3: the interval is the difference
modulo 2^TSW; a time source that does not step back gives the exact difference, one that does wraps. TSW is open
and has no value in the model, so this holds at every width (log 5); that the host's clock does not step back is a
premise (log 17). -/
def Obligations.IntervalIsDifferenceModuloWidth : Prop :=
  ∀ a p : Time,
    ((intervalSince a p).toNat : Int) = ((a.toNat : Int) - (p.toNat : Int)) % 2 ^ Config.TSW ∧
    (p.toNat ≤ a.toNat → (intervalSince a p).toNat = a.toNat - p.toNat) ∧
    (a.toNat < p.toNat → (intervalSince a p).toNat = 2 ^ Config.TSW - (p.toNat - a.toNat))

/-- 41_tracker_ops.md section 4 (derived there). With `m` frames lost in a row the reported gap is `m mod 256`; a
frame delivered twice reports 255 and is then expected again; two swapped frames report 1, 254 and 1. -/
def Obligations.GapArithmeticOfLossRepeatAndSwap : Prop :=
  (∀ (e : Byte) (m : Nat), (gap8 (BitVec.ofNat 8 (e.toNat + m)) e).toNat = m % 256) ∧
  (∀ e : Byte, gap8 (e - 1) e = 255 ∧ inc8 (e - 1) = e) ∧
  (∀ e : Byte, gap8 (e + 1) e = 1 ∧ gap8 e (inc8 (e + 1)) = 254 ∧ gap8 (e + 2) (inc8 e) = 1 ∧
    (gap8 (e + 1) e).toNat + (gap8 e (inc8 (e + 1))).toNat + (gap8 (e + 2) (inc8 e)).toNat = 256)

/-- 70_reset_and_hazards.md section 3 (derived there). The sum misses a reordering of the five bytes, and two errors
that cancel. -/
def Obligations.ChecksumMissesReorderingAndCancellation : Prop :=
  (∀ p q : List Byte, p.Perm q → cksum p = cksum q) ∧
  (∀ (a b d : Byte) (p q r : List Byte), cksum (p ++ (a + d) :: (q ++ (b - d) :: r)) = cksum (p ++ a :: (q ++ b :: r)))

/-! ### Frame format and selection -/

/-- 30_encoding.md section 1: in the 56-bit picture (a drawing aid of the spec) the field at stream offset `k` is
`F[55-8k : 48-8k]`, and bits 31 and 15 are the signs of the channels. -/
def Obligations.FrameFieldsInThePicture : Prop :=
  ∀ b0 b1 b2 b3 b4 b5 b6 : Byte,
    (∀ f : FrameField,
      (framePicture b0 b1 b2 b3 b4 b5 b6).extractLsb' (fieldLow f) 8 =
        (match f with
         | .marker => b0
         | .counter => b1
         | .ch1Lo => b2
         | .ch1Hi => b3
         | .ch2Lo => b4
         | .ch2Hi => b5
         | .checksum => b6)) ∧
    (framePicture b0 b1 b2 b3 b4 b5 b6).getLsbD 31 = (s16 b2 b3).msb ∧
    (framePicture b0 b1 b2 b3 b4 b5 b6).getLsbD 15 = (s16 b4 b5).msb

/-- R52. The operands of a payload: the counter as it is, each channel little-endian with the sign bit of its high
byte, and the checksum byte no operand. -/
def Obligations.OperandsOfAPayload : Prop :=
  ∀ c l1 h1 l2 h2 k k' : Byte,
    ∃ o, frameOperands [c, l1, h1, l2, h2, k] = some o ∧
      o.sequence = c ∧
      o.ch1.toInt = (h1 ++ l1 : BitVec 16).toInt ∧ o.ch1.msb = h1.getLsbD 7 ∧
      o.ch2.toInt = (h2 ++ l2 : BitVec 16).toInt ∧ o.ch2.msb = h2.getLsbD 7 ∧
      frameOperands [c, l1, h1, l2, h2, k'] = some o

/-- R51. The sixth byte decides: equal to the sum of the five, exactly one sample made of those bytes; different,
no sample, nothing but the diagnostic, and LossState untouched. -/
def Obligations.SixthByteDecidesValidity : Prop :=
  ∀ (s : State) (c l1 h1 l2 h2 b : Byte) (now : Time),
    s.started = true → s.halted = false → s.st = .readingPayload → s.buf = [c, l1, h1, l2, h2] →
    (validPayload [c, l1, h1, l2, h2, b] = true ↔ b = cksum [c, l1, h1, l2, h2]) ∧
    (b = cksum [c, l1, h1, l2, h2] →
      ∃ t r, deliver (.byte b now) s = .next t ∧ recordsOf t.out = [r] ∧ checksumErrorCount t.out = 0 ∧
        r.sequence = c ∧ r.ch1 = s16 l1 h1 ∧ r.ch2 = s16 l2 h2 ∧ r.arrivalTime = s.ts) ∧
    (b ≠ cksum [c, l1, h1, l2, h2] →
      ∃ t, deliver (.byte b now) s = .next t ∧ t.out = [.checksumError] ∧ sameLoss s t)

/-- R56. The map read by state: which of the 256 byte values selects which operation at each position. With five
bytes buffered the one value that is CHK.OK is the sum of the five, and the marker value has no standing of its own:
it is CHK.OK when that sum is the marker value, and CHK.ERR otherwise. -/
def Obligations.SelectionByPosition : Prop :=
  ∀ (c : Ctx) (now : Time), c.halted = false →
    (c.st = .awaitingStart →
      decodeInput c (.byte 0xAA#8 now) = .ok (.sof now) ∧
      ∀ b : Byte, b ≠ 0xAA#8 → decodeInput c (.byte b now) = .ok (.skip b)) ∧
    (c.st = .readingPayload → c.buf.length < 5 → ∀ b : Byte, decodeInput c (.byte b now) = .ok (.push b)) ∧
    (c.st = .readingPayload → c.buf.length = 5 →
      (∀ b : Byte, decodeInput c (.byte b now) = .ok (.chkOk b) ↔ b = cksum (c.buf.take 5)) ∧
      (∀ b : Byte, decodeInput c (.byte b now) = .ok (.chkErr b) ↔ b ≠ cksum (c.buf.take 5)) ∧
      (cksum (c.buf.take 5)).toNat = ((c.buf.map BitVec.toNat).sum) % 256 ∧
      decodeInput c (.byte 0xAA#8 now) =
        (if cksum (c.buf.take 5) = 0xAA#8 then .ok (.chkOk 0xAA#8) else .ok (.chkErr 0xAA#8)))

/-- 30_encoding.md sections 3 and 4 (the table's names are the spec's decision D24). Decode and encode agree: the word
of an operation decodes to that operation, with every operand, exactly where its operands are well-formed and its row
of the table selects it. The word of HOLD and the time beside a byte that does not sample it are the model's (log 13). -/
def Obligations.DecodeOfEncodeIsTheOperation : Prop :=
  ∀ (c : Ctx) (i : Instr),
    decode c (encode i) = .ok i ↔ (i.wellFormed = true ∧ selects c i = true)

/-- 30_encoding.md section 4. Whatever a word selects is well-formed and meets its row's condition; an input selects
nothing only at a position the spec's invariant rules out (log 8). -/
def Obligations.DecodedOperationMeetsItsRow : Prop :=
  (∀ (c : Ctx) (w : OpWord) (i : Instr), decode c w = .ok i → i.wellFormed = true ∧ selects c i = true) ∧
  (∀ (c : Ctx) (inp : Input), (∃ r, decodeInput c inp = .error r) ↔
    (c.halted = false ∧ c.st = .readingPayload ∧ 6 ≤ c.buf.length ∧ ∃ b now, inp = .byte b now))

/-- 30_encoding.md section 4: words written out from the spec's encodings. -/
def Obligations.WrittenOutWordsDecode : Prop :=
  decode resetCtx (.b 0b10101010#8 7) = .ok (.sof 7) ∧
  decode resetCtx (.b 0b10101011#8 7) = .ok (.skip 0xAB) ∧
  decode { resetCtx with st := .readingPayload } (.b 0b10101010#8 7) = .ok (.push 0xAA) ∧
  decode { resetCtx with st := .readingPayload, buf := [1, 0, 0, 0, 0] } (.b 0b00000001#8 7) = .ok (.chkOk 1) ∧
  decode { resetCtx with st := .readingPayload, buf := [1, 0, 0, 0, 0] } (.b 0b00000010#8 7) = .ok (.chkErr 2) ∧
  decode { resetCtx with exp := some 7 } (.t 0b00001000#8 1 2 3) = .ok (.trkGap 8 1 2 3) ∧
  decode resetCtx (.c 0b1000#4) = .ok .reset ∧
  decode resetCtx (.c 0b0000#4) = .ok .idle ∧
  decode resetCtx (.c 0b0010#4) = .ok .stop ∧
  decode resetCtx (.c 0b0100#4) = .ok .srcFail ∧
  decode { resetCtx with halted := true } (.c 0b0010#4) = .ok .hold

/-- A step runs the decoded operation: once a session has begun (or the input is Reset), a step consumes the host's
next input, drops the outputs of the step before, and is `exec` of the operation the input selects; with nothing left
to deliver it is the operation an idle report selects (log 1, log 2, log 3). -/
def Obligations.StepRunsTheDecodedOperation : Prop :=
  (∀ (s : State) (inp : Input) (rest : List Input) (i : Instr),
    s.inputs = inp :: rest → (s.started = true ∨ inp = .reset) → decodeInput s.ctx inp = .ok i →
    step s = exec i { s with inputs := rest, out := [] }) ∧
  (∀ s : State, s.inputs = [] → s.started = true →
    step s = exec (if s.halted then .hold else .idle) { s with out := [] })

/-! ### Decoder operations -/

/-- R62. SOF: where it is selected, and what it leaves. The marker is not stored, `now` is latched, LossState and
everything else is untouched, and no event is emitted. -/
def Obligations.SofStartsAFrame : Prop :=
  ∀ (s : State) (now : Time),
    (∀ b : Byte, decodeInput s.ctx (.byte b now) = .ok (.sof now) ↔
      (s.halted = false ∧ s.st = .awaitingStart ∧ b = 0xAA#8)) ∧
    (s.halted = false → s.st = .awaitingStart →
      exec (.sof now) s = .next { s with buf := [], ts := now, st := .readingPayload })

/-- R63. SKIP: any other byte in AwaitingStart; no state element changes and nothing is emitted. -/
def Obligations.SkipIgnoresNoise : Prop :=
  ∀ (s : State) (b : Byte) (now : Time),
    (decodeInput s.ctx (.byte b now) = .ok (.skip b) ↔
      (s.halted = false ∧ s.st = .awaitingStart ∧ b ≠ 0xAA#8)) ∧
    (s.halted = false → s.st = .awaitingStart → b ≠ 0xAA#8 → exec (.skip b) s = .next s)

/-- R64. PUSH: any byte, the marker value included, while at most four are buffered; it is stored at the index
`len(buf)` had, the earlier positions stay, and nothing else changes. -/
def Obligations.PushAppendsOneByte : Prop :=
  ∀ (s : State) (b : Byte) (now : Time),
    (decodeInput s.ctx (.byte b now) = .ok (.push b) ↔
      (s.halted = false ∧ s.st = .readingPayload ∧ s.buf.length ≤ 4)) ∧
    (s.halted = false → s.st = .readingPayload → s.buf.length ≤ 4 →
      exec (.push b) s = .next { s with buf := s.buf ++ [b] } ∧
      (s.buf ++ [b])[s.buf.length]? = some b ∧
      (s.buf ++ [b]).length = s.buf.length + 1)

/-- R65. CHK.OK: selected exactly by the checksum of the five; it appends, returns to AwaitingStart and performs the
tracker operation the table selects, on the operands of the frame and the time latched at its marker; the outputs are
that operation's. -/
def Obligations.ChkOkRunsTheTracker : Prop :=
  ∀ (s : State) (c l1 h1 l2 h2 : Byte),
    s.halted = false → s.st = .readingPayload → s.buf = [c, l1, h1, l2, h2] →
    (∀ (b : Byte) (now : Time), decodeInput s.ctx (.byte b now) = .ok (.chkOk b) ↔ b = cksum [c, l1, h1, l2, h2]) ∧
    ∃ t, exec (.chkOk (cksum [c, l1, h1, l2, h2])) s = .next t ∧
      exec (selectTracker s.exp c (s16 l1 h1) (s16 l2 h2) s.ts)
        { s with buf := [c, l1, h1, l2, h2, cksum [c, l1, h1, l2, h2]], st := .awaitingStart } = .next t

/-- 40_decoder_ops.md section 2 (CHK.ERR) and 92_eei_decisions.md D17: selected by every other sixth byte; it appends,
returns to AwaitingStart, reports a checksum error that carries no value, and leaves LossState, the latched time and
the session alone. -/
def Obligations.ChkErrDiscardsTheFrame : Prop :=
  ∀ (s : State) (b : Byte) (now : Time),
    (decodeInput s.ctx (.byte b now) = .ok (.chkErr b) ↔
      (s.halted = false ∧ s.st = .readingPayload ∧ s.buf.length = 5 ∧ b ≠ cksum (s.buf.take 5))) ∧
    (s.halted = false → s.st = .readingPayload → s.buf.length = 5 → b ≠ cksum (s.buf.take 5) →
      exec (.chkErr b) s =
        .next { s with buf := s.buf ++ [b], st := .awaitingStart, out := s.out ++ [.checksumError] })

/-- R67. The decoder's transitions are exactly four: the next synchronization state of a byte is a constant of its
row, and a marker value in a payload window restarts nothing; RESET, STOP and SRCFAIL also go to AwaitingStart. -/
def Obligations.DecoderHasFourTransitions : Prop :=
  ∀ (s : State) (b : Byte) (now : Time),
    s.started = true → s.halted = false → (s.st = .readingPayload → s.buf.length ≤ 5) →
    ∃ t, deliver (.byte b now) s = .next t ∧
      t.st =
        (match s.st with
         | .awaitingStart => if b = 0xAA#8 then .readingPayload else .awaitingStart
         | .readingPayload => if s.buf.length ≤ 4 then .readingPayload else .awaitingStart) ∧
      decodeInput s.ctx (.byte b now) =
        .ok (match s.st with
          | .awaitingStart => if b = 0xAA#8 then .sof now else .skip b
          | .readingPayload =>
            if s.buf.length ≤ 4 then .push b
            else if b = cksum (s.buf.take 5) then .chkOk b else .chkErr b) ∧
      (s.st = .readingPayload → t.buf = s.buf ++ [b]) ∧
      (∀ u, exec .reset s = .next u → u.st = .awaitingStart) ∧
      (∀ u, exec .stop s = .next u → u.st = .awaitingStart) ∧
      (∀ u, exec .srcFail s = .next u → u.st = .awaitingStart)

/-- R61. A decoder operation emits at most one decoder event: SOF, SKIP and PUSH none, CHK.OK one SampleDecoded,
CHK.ERR one ChecksumError; it writes only `st`, `buf` and `ts` (CHK.OK writes LossState through its tracker
operation); what it does to them does not depend on LossState; and only SOF reads the time of its byte. -/
def Obligations.DecoderOperationsEmitAtMostOneEvent : Prop :=
  ∀ (s t : State),
    (∀ now, exec (.sof now) s = .next t → t.out = s.out ∧ sameLoss s t ∧ sameSession s t) ∧
    (∀ b, exec (.skip b) s = .next t → t.out = s.out ∧ sameLoss s t ∧ sameSession s t) ∧
    (∀ b, exec (.push b) s = .next t → t.out = s.out ∧ sameLoss s t ∧ sameSession s t) ∧
    (∀ b, exec (.chkErr b) s = .next t → t.out = s.out ++ [.checksumError] ∧ sameLoss s t ∧ sameSession s t) ∧
    (∀ b, exec (.chkOk b) s = .next t → sameSession s t ∧
      ∃ r, recordsOf t.out = recordsOf s.out ++ [r] ∧ checksumErrorCount t.out = checksumErrorCount s.out) ∧
    (∀ (i : Instr) (u u' : State), rowFormat i = 'B' → exec i s = .next t → sameDecoder s u →
      u.halted = s.halted → exec i u = .next u' → sameDecoder t u') ∧
    (∀ (b : Byte) (n1 n2 : Time), s.st = .readingPayload ∨ b ≠ 0xAA#8 →
      deliver (.byte b n1) s = deliver (.byte b n2) s)

/-! ### Tracker operations -/

/-- R71. TRK.FIRST: selected while nothing is expected, at every sequence number; it initializes the expected counter,
reports no loss, and delivers the record flagged first; nothing else changes. Once something is expected, no operation
but RESET makes the tracker expect nothing again. -/
def Obligations.TrkFirstAcceptsUnconditionally : Prop :=
  (∀ (s : State) (q : Byte) (c1 c2 : Sample) (a : Time), s.exp = none →
    selectTracker s.exp q c1 c2 a = .trkFirst q c1 c2 a ∧
    exec (.trkFirst q c1 c2 a) s = .next { s with
      exp := some (inc8 q)
      totalValid := add64 s.totalValid 1
      prevTs := a
      out := s.out ++ [.sampleDecoded
        { sequence := q, ch1 := c1, ch2 := c2, arrivalTime := a, interval := intervalSince a s.prevTs,
          first := true, totalLost := s.totalLost, totalValid := add64 s.totalValid 1 }] }) ∧
  inc8 255#8 = 0#8 ∧
  (∀ (i : Instr) (s t : State), s.exp ≠ none → i ≠ .reset → exec i s = .next t → t.exp ≠ none)

/-- R72. TRK.SEQ: selected by the expected sequence number, which a loss of any multiple of 256 frames shows again; it
advances the expected counter and delivers the record; `total_lost` is not written. -/
def Obligations.TrkSeqAdvances : Prop :=
  (∀ (s : State) (q : Byte) (c1 c2 : Sample) (a : Time), s.exp = some q →
    selectTracker s.exp q c1 c2 a = .trkSeq q c1 c2 a ∧
    exec (.trkSeq q c1 c2 a) s = .next { s with
      exp := some (inc8 q)
      totalValid := add64 s.totalValid 1
      prevTs := a
      out := s.out ++ [.sampleDecoded
        { sequence := q, ch1 := c1, ch2 := c2, arrivalTime := a, interval := intervalSince a s.prevTs,
          first := false, totalLost := s.totalLost, totalValid := add64 s.totalValid 1 }] }) ∧
  inc8 255#8 = 0#8 ∧
  (∀ (e : Byte) (k : Nat) (c1 c2 : Sample) (a : Time),
    selectTracker (some e) (BitVec.ofNat 8 (e.toNat + 256 * k)) c1 c2 a =
      .trkSeq (BitVec.ofNat 8 (e.toNat + 256 * k)) c1 c2 a)

/-- 41_tracker_ops.md section 2 (TRK.GAP) and 92_eei_decisions.md D18 (the diagnostic before the sample): selected by
any other sequence number; the gap, never 0, is added to `total_lost` and reported; the expectation restarts from the
observed number; the sample is delivered with the new total. -/
def Obligations.TrkGapCountsAndReports : Prop :=
  ∀ (s : State) (q e : Byte) (c1 c2 : Sample) (a : Time), s.exp = some e → q ≠ e →
    selectTracker s.exp q c1 c2 a = .trkGap q c1 c2 a ∧
    gap8 q e ≠ 0 ∧
    exec (.trkGap q c1 c2 a) s = .next { s with
      totalLost := add64 s.totalLost (gap8 q e).toNat
      exp := some (inc8 q)
      totalValid := add64 s.totalValid 1
      prevTs := a
      out := s.out ++ [.lost (gap8 q e), .sampleDecoded
        { sequence := q, ch1 := c1, ch2 := c2, arrivalTime := a, interval := intervalSince a s.prevTs,
          first := false, totalLost := add64 s.totalLost (gap8 q e).toNat,
          totalValid := add64 s.totalValid 1 }] }

/-- 41_tracker_ops.md section 1 (R70). A tracker operation reads and writes LossState and emits events, and nothing else: the decoder's `st`, `buf`
and `ts` and the session flags are untouched and not read, the channels pass into the record unchanged and influence
nothing else, each of the three leaves the successor of the sequence expected; and a failed frame, a noise byte or an
idle report never reaches LossState. That the record is the last output, after the loss, is the spec's own decision
D18. -/
def Obligations.TrackerWritesOnlyLossState : Prop :=
  (∀ (i : Instr) (q : Byte) (c1 c2 d1 d2 : Sample) (a : Time) (s t : State),
    (i = .trkFirst q c1 c2 a ∨ i = .trkSeq q c1 c2 a ∨ i = .trkGap q c1 c2 a) → exec i s = .next t →
    sameDecoder s t ∧ sameSession s t ∧ t.exp = some (inc8 q) ∧
    (∃ outs r, t.out = s.out ++ outs ++ [.sampleDecoded r] ∧ r.sequence = q ∧ r.ch1 = c1 ∧ r.ch2 = c2 ∧
      r.arrivalTime = a) ∧
    (∃ u, exec (selectTracker s.exp q d1 d2 a) s = .next u ∧ sameLoss t u) ∧
    (∀ w, sameLoss s w → ∃ u, exec i w = .next u ∧ sameLoss t u)) ∧
  (∀ (b : Byte) (s t : State),
    (exec (.chkErr b) s = .next t ∨ exec (.skip b) s = .next t ∨ exec .idle s = .next t) → sameLoss s t)

/-! ### System operations -/

/-- 42_system_ops.md (RESET) and 92_eei_decisions.md D4: in any state, halted or not, RESET gives the nine elements
their reset values and emits nothing; the host's pending inputs are not the block's. -/
def Obligations.ResetStartsASession : Prop :=
  (∀ s : State, exec .reset s =
    .next { State.reset with inputs := s.inputs, out := s.out }) ∧
  (∀ s : State, deliver .reset s = .next { State.reset with inputs := s.inputs }) ∧
  (∀ s t u : State, deliver .reset s = .next t → deliver .reset t = .next u → u = t)

/-- 10_state.md section 7: the value of every element after reset. `st` and `exp` are stated by the document,
`total_lost` derived there, the others are the spec's own decisions D9, D13, D15, D19 (log 10). -/
def Obligations.ResetStateValues : Prop :=
  State.reset.st = .awaitingStart ∧ State.reset.buf = [] ∧ State.reset.ts = 0 ∧ State.reset.exp = none ∧
  State.reset.totalValid = 0 ∧ State.reset.totalLost = 0 ∧ State.reset.prevTs = 0 ∧
  State.reset.halted = false ∧ State.reset.fatal = false

/-- R80. IDLE: no state element changes and nothing is emitted, in either synchronization state; an idle report put
anywhere before another input of a begun session leaves every later output and state as it was. -/
def Obligations.IdleChangesNothing : Prop :=
  (∀ s : State, decodeInput s.ctx .idle = .ok .idle ↔ s.halted = false) ∧
  (∀ s : State, s.halted = false → exec .idle s = .next s) ∧
  (∀ (s : State) (xs ys : List Input), s.started = true → ys ≠ [] →
    runInputs s (xs ++ .idle :: ys) = runInputs s (xs ++ ys))

/-- 42_system_ops.md (STOP) and 92_eei_decisions.md D19: a partial frame is dropped without an event of its own, the
session is halted, and the totals as they stand are summarised. -/
def Obligations.StopEndsTheSession : Prop :=
  ∀ s : State, s.halted = false →
    exec .stop s = .next { s with
      st := .awaitingStart
      halted := true
      out := s.out ++ [.summary s.totalValid s.totalLost false] }

/-- 42_system_ops.md (SRCFAIL) and 92_eei_decisions.md D20: as STOP, with `fatal` set and shown in the summary. -/
def Obligations.SourceFailureEndsTheSession : Prop :=
  ∀ s : State, s.halted = false →
    exec .srcFail s = .next { s with
      st := .awaitingStart
      halted := true
      fatal := true
      out := s.out ++ [.summary s.totalValid s.totalLost true] }

/-- 42_system_ops.md (HOLD) and 92_eei_decisions.md D22: after the end every input but Reset is consumed with no state
change and no output, however many there are. -/
def Obligations.HoldIsInertUntilReset : Prop :=
  (∀ s : State, s.halted = true → exec .hold s = .next s) ∧
  (∀ (s : State) (xs : List Input), s.halted = true → s.started = true → (∀ x ∈ xs, x ≠ .reset) → xs ≠ [] →
    runInputs s xs = .next ({ s with out := [] }, []))

/-- 10_state.md section 4 (D19): the session flags change only by the operations the spec names, over all operations:
`halted` is set by STOP and SRCFAIL and cleared by RESET, `fatal` is set by SRCFAIL and cleared by RESET. -/
def Obligations.OnlyNamedOperationsChangeTheSessionFlags : Prop :=
  ∀ (i : Instr) (s t : State), exec i s = .next t →
    (s.halted = false → t.halted = true → i = .stop ∨ i = .srcFail) ∧
    (s.halted = true → t.halted = false → i = .reset) ∧
    (s.fatal = false → t.fatal = true → i = .srcFail) ∧
    (s.fatal = true → t.fatal = false → i = .reset)

/-- 70_reset_and_hazards.md section 1 and 92_eei_decisions.md D26: before the first RESET every input but Reset is
refused by name, whatever the elements hold; Reset leaves the reset state, whatever they held (log 4). -/
def Obligations.NothingRunsBeforeTheFirstReset : Prop :=
  ∀ (s : State) (inp : Input), s.started = false →
    (inp ≠ .reset → deliver inp s = .refused .beforeFirstReset) ∧
    (inp = .reset → deliver inp s = .next { State.reset with inputs := s.inputs })

/-! ### Frames and invariants of every step -/

/-- 10_state.md section 6, the access table (derived there): for each operation, every element it does not write is
unchanged, and so is the output list where it emits nothing. -/
def Obligations.UnwrittenElementsAreUnchanged : Prop :=
  ∀ (i : Instr) (s t : State), exec i s = .next t →
    match i with
    | .sof _ => sameLoss s t ∧ sameSession s t ∧ t.out = s.out
    | .skip _ => t = s
    | .push _ => t.st = s.st ∧ t.ts = s.ts ∧ sameLoss s t ∧ sameSession s t ∧ t.out = s.out
    | .chkOk _ => t.ts = s.ts ∧ sameSession s t
    | .chkErr _ => t.ts = s.ts ∧ sameLoss s t ∧ sameSession s t
    | .trkFirst _ _ _ _ => sameDecoder s t ∧ t.totalLost = s.totalLost ∧ sameSession s t
    | .trkSeq _ _ _ _ => sameDecoder s t ∧ t.totalLost = s.totalLost ∧ sameSession s t
    | .trkGap _ _ _ _ => sameDecoder s t ∧ sameSession s t
    | .reset => t.inputs = s.inputs ∧ t.out = s.out
    | .idle => t = s
    | .stop => t.buf = s.buf ∧ t.ts = s.ts ∧ sameLoss s t ∧ t.fatal = s.fatal ∧ t.started = s.started ∧
        t.inputs = s.inputs
    | .srcFail => t.buf = s.buf ∧ t.ts = s.ts ∧ sameLoss s t ∧ t.started = s.started ∧ t.inputs = s.inputs
    | .hold => t = s

/-- 10_state.md section 2, the position table (derived there): how each operation moves (st, len(buf)). -/
def Obligations.PositionMovesByTheTable : Prop :=
  ∀ (i : Instr) (s t : State), exec i s = .next t →
    match i with
    | .sof _ => s.st = .awaitingStart ∧ t.position = (.readingPayload, 0)
    | .skip _ => t.position = s.position
    | .push _ => s.buf.length ≤ 4 ∧ t.position = (.readingPayload, s.buf.length + 1)
    | .chkOk _ => s.position = (.readingPayload, 5) ∧ t.position = (.awaitingStart, 6)
    | .chkErr _ => s.position = (.readingPayload, 5) ∧ t.position = (.awaitingStart, 6)
    | .trkFirst _ _ _ _ => t.position = s.position
    | .trkSeq _ _ _ _ => t.position = s.position
    | .trkGap _ _ _ _ => t.position = s.position
    | .reset => t.position = (.awaitingStart, 0)
    | .idle => t.position = s.position
    | .stop => t.position = (.awaitingStart, s.buf.length)
    | .srcFail => t.position = (.awaitingStart, s.buf.length)
    | .hold => t.position = s.position

/-- 10_state.md section 2, the invariants (derived there): they hold right after reset. -/
def Obligations.ResetMeetsTheInvariant : Prop :=
  inv State.reset ∧ ∀ xs : List Input, inv { State.reset with inputs := xs }

/-- 10_state.md section 2, the invariants (derived there): every step keeps them, whatever the host delivers. -/
def Obligations.EveryStepKeepsTheInvariant : Prop :=
  ∀ s t : State, inv s → step s = .next t → inv t

/-- 10_state.md section 2: the reachable positions while the session runs are exactly eight; each is reached, from
reset, by some inputs. -/
def Obligations.ReachablePositionsAreEight : Prop :=
  (∀ s : State, inv s → s.halted = false →
    s.position ∈ [(.awaitingStart, 0), (.awaitingStart, 6), (.readingPayload, 0), (.readingPayload, 1),
      (.readingPayload, 2), (.readingPayload, 3), (.readingPayload, 4), (.readingPayload, 5)]) ∧
  (∀ p ∈ [(SyncState.awaitingStart, 0), (.awaitingStart, 6), (.readingPayload, 0), (.readingPayload, 1),
      (.readingPayload, 2), (.readingPayload, 3), (.readingPayload, 4), (.readingPayload, 5)],
    ∃ xs t outs, runInputs State.reset xs = .next (t, outs) ∧ t.halted = false ∧ t.position = p)

/-- 00_scope.md section 7 and 30_encoding.md section 5 (D1): in a begun session the step is total: no byte, no control
input and no idle line is refused or faults. -/
def Obligations.NoStepStopsInABegunSession : Prop :=
  (∀ s : State, inv s → ∃ t, step s = .next t) ∧
  (∀ (s : State) (inp : Input), inv s → ∃ t, deliver inp s = .next t) ∧
  (∀ (s : State) (xs : List Input), inv s → ∃ t outs, runInputs s xs = .next (t, outs) ∧ inv t)

/-- 60_exceptions.md section 3 (D18): the output list of a step, from any state, is one of five, and a reported gap is
1 to 255; what the step before emitted is gone. -/
def Obligations.OutputListsOfAStep : Prop :=
  ∀ s t : State, step s = .next t → outputsOk t.out = true

/-- 10_state.md section 3 (R29). LossState has one writer: no operation but RESET and the tracker's writes it, CHK.OK
writes it exactly as the one tracker operation the table selects for its frame, and the end of a session reports its
totals. Of the values RESET gives (10_state.md section 7) those of `total_valid` and `prev_ts` are the spec's own
decisions D15 and D9 (log 10), and the summary with its `fatal` component is D19 and D20. -/
def Obligations.LossStateHasOneWriter : Prop :=
  ∀ (i : Instr) (s t : State), exec i s = .next t →
    match i with
    | .reset => t.exp = none ∧ t.totalValid = 0 ∧ t.totalLost = 0 ∧ t.prevTs = 0
    | .chkOk b => ∃ (c l1 h1 l2 h2 : Byte) (j : Instr), s.buf = [c, l1, h1, l2, h2] ∧
        j = selectTracker s.exp c (s16 l1 h1) (s16 l2 h2) s.ts ∧ rowFormat j = 'T' ∧
        exec j { s with buf := s.buf ++ [b], st := .awaitingStart } = .next t ∧
        t.totalValid = add64 s.totalValid 1
    | .trkFirst _ _ _ _ => t.totalValid = add64 s.totalValid 1
    | .trkSeq _ _ _ _ => t.totalValid = add64 s.totalValid 1
    | .trkGap _ _ _ _ => t.totalValid = add64 s.totalValid 1
    | .sof _ => sameLoss s t
    | .skip _ => sameLoss s t
    | .push _ => sameLoss s t
    | .chkErr _ => sameLoss s t
    | .idle => sameLoss s t
    | .stop => sameLoss s t ∧ t.out = s.out ++ [.summary s.totalValid s.totalLost false]
    | .srcFail => sameLoss s t ∧ t.out = s.out ++ [.summary s.totalValid s.totalLost true]
    | .hold => sameLoss s t

/-- R49. The tracker never feeds back: two states alike in `st`, `buf` and `halted`, given inputs alike but for the
time of a byte, take steps that leave them alike in those again, whatever the expected counter, the totals, the
previous arrival time, the latched time and the earlier outputs were; every byte is classified alike in both. -/
def Obligations.TrackerNeverInfluencesTheDecoder : Prop :=
  ∀ (s u : State), sameClassification s u →
    (∀ (b : Byte) (now : Time), decodeInput s.ctx (.byte b now) = decodeInput u.ctx (.byte b now)) ∧
    (∀ (t : State) (x y : Input), sameButTime x y = true → deliver x s = .next t →
      ∃ v, deliver y u = .next v ∧ sameClassification t v ∧
        checksumErrorCount v.out = checksumErrorCount t.out ∧
        (recordsOf v.out).length = (recordsOf t.out).length)

/-- 60_exceptions.md sections 1 and 4 (codes: D16; order of the two events of a gap: D18). Which operation raises which
condition, with its code; what each of the four leaves, every element written out, so that nothing else is latched:
noise nothing at all, a checksum failure the six bytes and its event, a gap LossState and its events, a failed source
the two flags and the summary; no other operation reports a loss or a checksum error, and CHK.OK reports a loss
exactly when the tracker operation it triggers raises the gap. -/
def Obligations.ConditionsAndTheirEvents : Prop :=
  (conditionCode .syncNoise = 0 ∧ conditionCode .checksumFailure = 1 ∧ conditionCode .sequenceGap = 2 ∧
    conditionCode .sourceUnavailable = 3) ∧
  (∀ i : Instr, conditionOf i =
    (match i with
     | .skip _ => some .syncNoise
     | .chkErr _ => some .checksumFailure
     | .trkGap _ _ _ _ => some .sequenceGap
     | .srcFail => some .sourceUnavailable
     | .sof _ | .push _ | .chkOk _ | .trkFirst _ _ _ _ | .trkSeq _ _ _ _ | .reset | .idle | .stop | .hold => none)) ∧
  (∀ (b : Byte) (s t : State), exec (.skip b) s = .next t → t = s) ∧
  (∀ (b : Byte) (s t : State), exec (.chkErr b) s = .next t →
    t = { s with buf := s.buf ++ [b], st := .awaitingStart, out := s.out ++ [.checksumError] }) ∧
  (∀ (q : Byte) (c1 c2 : Sample) (a : Time) (s t : State), exec (.trkGap q c1 c2 a) s = .next t →
    ∃ e r, s.exp = some e ∧ gap8 q e ≠ 0 ∧ t = { s with
      totalLost := add64 s.totalLost (gap8 q e).toNat
      exp := some (inc8 q)
      totalValid := add64 s.totalValid 1
      prevTs := a
      out := s.out ++ [.lost (gap8 q e), .sampleDecoded r] }) ∧
  (∀ s t : State, exec .srcFail s = .next t → t = { s with
    st := .awaitingStart
    halted := true
    fatal := true
    out := s.out ++ [.summary s.totalValid s.totalLost true] }) ∧
  (∀ (i : Instr) (s t : State), conditionOf i = none → exec i s = .next t →
    checksumErrorCount t.out = checksumErrorCount s.out ∧ ((∀ b, i ≠ .chkOk b) → gapsOf t.out = gapsOf s.out)) ∧
  (∀ (b c l1 h1 l2 h2 : Byte) (s t : State), s.buf = [c, l1, h1, l2, h2] → exec (.chkOk b) s = .next t →
    (gapsOf t.out ≠ gapsOf s.out ↔
      conditionOf (selectTracker s.exp c (s16 l1 h1) (s16 l2 h2) s.ts) = some .sequenceGap))

/-! ### Runs -/

/-- 40_decoder_ops.md section 3 (its worked example is derived there): from an accepted marker, six bytes with any
number of idle reports among them have exactly one outcome: one record and no error where the sixth byte is the sum of
the five, one error and no record otherwise; the decoder is back in AwaitingStart with those six bytes buffered. -/
def Obligations.ExactlyOneOutcomePerMarker : Prop :=
  ∀ (s : State) (xs : List Input), s.started = true → s.halted = false → s.st = .readingPayload → s.buf = [] →
    (∀ x ∈ xs, isStream x = true) → (bytesOf xs).length = 6 →
    ∃ t outs, runInputs s xs = .next (t, outs) ∧ t.st = .awaitingStart ∧ t.buf = bytesOf xs ∧ t.ts = s.ts ∧
      t.halted = false ∧
      ((validPayload (bytesOf xs) = true ∧ (recordsOf outs).length = 1 ∧ checksumErrorCount outs = 0) ∨
       (validPayload (bytesOf xs) = false ∧ outs = [.checksumError] ∧ sameLoss s t))

/-- 30_encoding.md section 2, the inverse of assembly (derived there), with 40_decoder_ops.md: the seven bytes of the
frame for `(q, a, c)`, delivered at any times in AwaitingStart, deliver a record with exactly that sequence and those
channel values and the time of the marker. That the loss before it is reported first is the spec's own decision D18,
the interval of a first record that of D9, the wrap of the totals D14. -/
def Obligations.FrameIsDeliveredUnchanged : Prop :=
  ∀ (s : State) (q : Byte) (a c : Sample) (t0 t1 t2 t3 t4 t5 t6 : Time),
    s.started = true → s.halted = false → s.st = .awaitingStart →
    ∃ t r lostPart,
      runInputs s (List.zipWith Input.byte (frameBytes q a c) [t0, t1, t2, t3, t4, t5, t6]) =
        .next (t, lostPart ++ [.sampleDecoded r]) ∧
      r.sequence = q ∧ r.ch1 = a ∧ r.ch2 = c ∧ r.arrivalTime = t0 ∧ r.interval = intervalSince t0 s.prevTs ∧
      (r.first = true ↔ s.exp = none) ∧ r.totalValid = add64 s.totalValid 1 ∧ r.totalLost = t.totalLost ∧
      lostPart = (match s.exp with
        | none => []
        | some e => if q = e then [] else [.lost (gap8 q e)]) ∧
      t.st = .awaitingStart ∧ t.exp = some (inc8 q) ∧ t.prevTs = t0 ∧ t.totalValid = r.totalValid ∧
      t.totalLost = add64 s.totalLost (match s.exp with
        | none => 0
        | some e => (gap8 q e).toNat)

/-- 30_encoding.md section 6 (D24): `.badframe` never validates: one checksum error, LossState untouched; and `.seq` is
its frames in order. -/
def Obligations.BadFrameNeverValidates : Prop :=
  (∀ (s : State) (now : Time) (q : Byte) (a c : Sample) (d : Byte),
    s.started = true → s.halted = false → s.st = .awaitingStart → directiveOk (.badframe q a c d) = true →
    ∃ t, runInputs s (expandFrom now [.badframe q a c d]) = .next (t, [.checksumError]) ∧ sameLoss s t ∧
      t.st = .awaitingStart) ∧
  (∀ (now : Time) (ss : List Byte) (rest : List Directive),
    expandFrom now (.seq ss :: rest) = expandFrom now (ss.map (fun q => .frame q 0 0) ++ rest))

/-- 41_tracker_ops.md section 4 (derived there; 90_conflicts.md C5; the loss before the sample is the spec's D18): a
frame corrupted in any of its payload bytes, the counter byte among them, changes no total; the next valid frame,
whose number is one more than expected, reports it as one lost. Corrupted before anything is expected, it is never
counted: the next valid frame, of any number, reports no loss. -/
def Obligations.CorruptedFrameCountsAsLostOneFrameLater : Prop :=
  ∀ (s : State) (x0 x1 x2 x3 x4 x5 : Byte) (a c : Sample) (now now' : Time),
    s.started = true → s.halted = false → s.st = .awaitingStart → x5 ≠ cksum [x0, x1, x2, x3, x4] →
    (∃ u, runInputs s (byteInputs now [0xAA, x0, x1, x2, x3, x4, x5]) = .next (u, [.checksumError]) ∧
      sameLoss s u) ∧
    (∀ e : Byte, s.exp = some e →
      ∃ t r, runInputs s (byteInputs now [0xAA, x0, x1, x2, x3, x4, x5] ++ byteInputs now' (frameBytes (inc8 e) a c)) =
          .next (t, [.checksumError, .lost 1, .sampleDecoded r]) ∧
        r.sequence = inc8 e ∧ t.totalLost = add64 s.totalLost 1 ∧ t.totalValid = add64 s.totalValid 1 ∧
        t.exp = some (inc8 (inc8 e))) ∧
    (∀ q : Byte, s.exp = none →
      ∃ t r, runInputs s (byteInputs now [0xAA, x0, x1, x2, x3, x4, x5] ++ byteInputs now' (frameBytes q a c)) =
          .next (t, [.checksumError, .sampleDecoded r]) ∧
        r.sequence = q ∧ t.totalLost = s.totalLost ∧ t.totalValid = add64 s.totalValid 1 ∧ t.exp = some (inc8 q))

/-- 70_reset_and_hazards.md section 3 (derived there): a marker value before a frame costs that frame: its first bytes
are the window, which fails unless its sums happen to agree, and its checksum byte is skipped unless it is the marker
value; no sample, LossState untouched. -/
def Obligations.FalseMarkerCostsTheFrame : Prop :=
  ∀ (s : State) (q : Byte) (a c : Sample) (now now' : Time),
    s.started = true → s.halted = false → s.st = .awaitingStart →
    highByte c ≠ cksum [0xAA, q, lowByte a, highByte a, lowByte c] → cksum (frameBody q a c) ≠ 0xAA#8 →
    ∃ t, runInputs s (.byte 0xAA#8 now :: byteInputs now' (frameBytes q a c)) = .next (t, [.checksumError]) ∧
      t.st = .awaitingStart ∧ t.ts = now ∧ sameLoss s t

/-- 70_reset_and_hazards.md section 3 (derived there): a stream of nothing but the marker value reports a checksum
error every seventh byte, for ever, and never a sample. -/
def Obligations.AllMarkerStreamFailsEverySeventhByte : Prop :=
  ∀ (s : State) (n : Nat) (now : Time), s.started = true → s.halted = false → s.st = .awaitingStart →
    ∃ t, runInputs s (byteInputs now (List.replicate (7 * n) 0xAA#8)) =
        .next (t, List.replicate n .checksumError) ∧
      t.st = .awaitingStart ∧ sameLoss s t

/-- 20_memory.md section 5 (the ordering a program may rely on) with the spec's wrap D14: over any run without Reset,
the k-th record carries the number of records so far, `total_valid` grows by the number of records and `total_lost` by
the sum of the reported gaps. -/
def Obligations.TotalsCountTheEvents : Prop :=
  ∀ (s t : State) (xs : List Input) (outs : List Output),
    (∀ x ∈ xs, x ≠ .reset) → runInputs s xs = .next (t, outs) →
    (recordsOf outs).map (fun r => r.totalValid) =
      (List.range (recordsOf outs).length).map (fun k => add64 s.totalValid (k + 1)) ∧
    t.totalValid = add64 s.totalValid (recordsOf outs).length ∧
    t.totalLost = add64 s.totalLost ((gapsOf outs).map BitVec.toNat).sum

/-- 42_system_ops.md, the shape of a session (derived there): without Reset a run emits at most one summary, and the
session is over exactly when it began over or one was emitted. -/
def Obligations.AtMostOneSummaryPerSession : Prop :=
  ∀ (s t : State) (xs : List Input) (outs : List Output),
    (∀ x ∈ xs, x ≠ .reset) → runInputs s xs = .next (t, outs) →
    summaryCount outs ≤ 1 ∧
    (s.halted = true → summaryCount outs = 0 ∧ t.halted = true) ∧
    (s.halted = false → (t.halted = true ↔ summaryCount outs = 1))

/-- 00_scope.md section 7 (D1): a run of the block is the fold of the step over the inputs: the host's queue, stepped
through, ends in the same state. -/
def Obligations.StepsConsumeTheQueueAsTheFold : Prop :=
  ∀ (s t : State) (xs : List Input) (outs : List Output),
    runInputs { s with inputs := [] } xs = .next (t, outs) →
    Host.Core.run core xs.length { s with inputs := xs } = .next t

/-! ### Boundary -/

/-- 10_state.md section 8 (D2): the binding of a cycle's control word to inputs, and one cycle that delivers one input
is one step of it. -/
def Obligations.CycleBindsPinsToInputs : Prop :=
  (∀ p : Pins, pinInputs (controlWord p) p.rxData p.now =
    (if p.rst then [.reset]
     else if p.srcErr then [.srcFail]
     else (if p.rxValid then [.byte p.rxData p.now] else if p.stop then [] else [.idle]) ++
       (if p.stop then [.stop] else []))) ∧
  (∀ (x : Input) (s : State), cycle (pinsOf x) s = deliver x s)

/-- 60_exceptions.md section 3 and 92_eei_decisions.md D21: a byte that coincides with `stop` is processed first, so
the summary counts the frame it completes; a byte that coincides with `src_err` is discarded. -/
def Obligations.CoincidingByteIsCountedBeforeStop : Prop :=
  ∀ (s t : State) (p : Pins), s.halted = false → p.rst = false → p.rxValid = true →
    (p.srcErr = false → p.stop = true → deliver (.byte p.rxData p.now) s = .next t →
      cycle p s = .next { t with
        st := .awaitingStart
        halted := true
        out := t.out ++ [.summary t.totalValid t.totalLost false] }) ∧
    (p.srcErr = true → cycle p s = deliver .srcFail s)

/-- 10_state.md sections 5 and 8 (D2, D3, D6). Each strobe is asserted exactly when the outputs hold its event; after a
step the data ports carry that event's value and nothing otherwise (log 16); the state ports show the state, which
state being the model's choice (log 22), but the totals ports carry a summary's values beside its strobe; a byte is
never refused; a loss comes only with a sample, a checksum error and a summary with neither. In a run of cycles the
strobes and their data, a summary's totals among them, come a latency of any length late, in the same order, and not
before, whatever the cycles since have done to the state; the implementation's is OUT_LATENCY (log 7). -/
def Obligations.PortsAfterAStep : Prop :=
  (∀ t : State,
    (ports t).rxReady = true ∧
    ((ports t).sampleValid = true ↔ ∃ r, .sampleDecoded r ∈ t.out) ∧
    ((ports t).cksumErr = true ↔ .checksumError ∈ t.out) ∧
    ((ports t).lostValid = true ↔ ∃ n, .lost n ∈ t.out) ∧
    ((ports t).summaryValid = true ↔ ∃ v l f, .summary v l f ∈ t.out) ∧
    (ports t).sync = (match t.st with
      | .awaitingStart => 0#1
      | .readingPayload => 1#1) ∧
    ((ports t).summaryValid = false → (ports t).totalValid = t.totalValid ∧ (ports t).totalLost = t.totalLost) ∧
    (ports t).halted = t.halted ∧ (ports t).fatal = t.fatal) ∧
  (∀ s t : State, step s = .next t →
    (∀ r, (ports t).sample = some r ↔ .sampleDecoded r ∈ t.out) ∧
    (∀ n, (ports t).lostN = some n ↔ .lost n ∈ t.out) ∧
    ((ports t).lostValid = true → (ports t).sampleValid = true) ∧
    ((ports t).cksumErr = true → (ports t).sampleValid = false ∧ (ports t).summaryValid = false) ∧
    (ports t).totalValid = t.totalValid ∧ (ports t).totalLost = t.totalLost ∧
    (∀ v l f, .summary v l f ∈ t.out →
      (ports t).totalValid = v ∧ (ports t).totalLost = l ∧ (ports t).halted = true ∧
      (ports t).sampleValid = false)) ∧
  (∀ (latency : Nat) (s : State) (ps : List Pins) (after : List State), runCycles s ps = .next after →
    after.length = ps.length ∧
    (∀ (k : Nat) (t : State), after[k]? = some t →
      (k < latency → portsAt latency after k = some (portsShowing t [])) ∧
      (∀ (j : Nat) (u : State), after[j]? = some u → k = j + latency →
        ∃ p, portsAt latency after k = some p ∧ p = portsShowing t u.out ∧
          p.sync = syncBit t.st ∧ p.halted = t.halted ∧ p.fatal = t.fatal ∧
          p.sampleValid = (ports u).sampleValid ∧ p.sample = (ports u).sample ∧ p.cksumErr = (ports u).cksumErr ∧
          p.lostValid = (ports u).lostValid ∧ p.lostN = (ports u).lostN ∧ p.summaryValid = (ports u).summaryValid ∧
          (p.summaryValid = false → p.totalValid = t.totalValid ∧ p.totalLost = t.totalLost) ∧
          (∀ v l f, .summary v l f ∈ u.out → p.summaryValid = true ∧ p.totalValid = v ∧ p.totalLost = l))) ∧
    (∀ k, portsAt 0 after k = (after[k]?).map ports)) ∧
  (∀ (after : List State) (k : Nat), pinPorts after k = portsAt Config.outLatency after k)

/-- 43_sink_boundary.md (R88 in part derived, in part general knowledge; log 14): the scale is exactly 1/32, lies in
the stated range, and is undone without tolerance. -/
def Obligations.ScaleIsExactAndInvertible : Prop :=
  (∀ v : Sample, scale v = (v.toInt : Rat) / 32 ∧ scale v * 32 = (v.toInt : Rat) ∧
    -1024 ≤ scale v ∧ scale v ≤ 1023 + 31 / 32) ∧
  (∀ v w : Sample, scale v = scale w → v = w)

/-- 43_sink_boundary.md: the two sinks differ on purpose: the console shows the raw counts of the record, the stream
those counts over 32, channel 1 first, and neither changes the other's values. The stream's numbers are exact rationals
for the document's 32-bit floats (log 14); its timestamp is the host's (D30), of any clock and any type (log 23). -/
def Obligations.SinksShowRawAndScaledCounts : Prop :=
  ∀ (τ : Type) (r : SampleRecord) (ts : τ),
    (consoleFields r).ch1 = r.ch1.toInt ∧ (consoleFields r).ch2 = r.ch2.toInt ∧
    (consoleFields r).totalLost = r.totalLost ∧
    (streamPublication r ts).1.map (fun v => v * 32) =
      [((consoleFields r).ch1 : Rat), ((consoleFields r).ch2 : Rat)] ∧
    (streamPublication r ts).2 = ts

/-- 10_state.md sections 2 and 3 (R21 and R25 in the decision D11): the register forms show what the normative forms
show: clear and append commute with the reading, and no register at or beyond the count is read; a valid `exp_val` reads
as that value being expected, an invalid one as nothing expected, whatever it holds; and each normative form has a
register form. -/
def Obligations.RegisterFormsRefineTheState : Prop :=
  (∀ r : RegBuf, regBufList (regBufClear r) = []) ∧
  (∀ (r : RegBuf) (b : Byte), r.cnt.val < 6 → regBufList (regBufAppend r b) = regBufList r ++ [b]) ∧
  (∀ r : RegBuf, (regBufList r).length = r.cnt.val) ∧
  (∀ (r : RegBuf) (i : Nat) (h : i < 6), i < r.cnt.val → (regBufList r)[i]? = some r.regs[i]) ∧
  (∀ r u : RegBuf, r.cnt = u.cnt → (∀ i, i < r.cnt.val → r.regs.toList[i]? = u.regs.toList[i]?) →
    regBufList r = regBufList u) ∧
  (∀ v : Byte, regExpOption { expValid := true, expVal := v } = some v) ∧
  (∀ v : Byte, regExpOption { expValid := false, expVal := v } = none) ∧
  (∀ l : List Byte, l.length ≤ 6 → ∃ r : RegBuf, regBufList r = l) ∧
  (∀ o : Option Byte, ∃ r : RegExp, regExpOption r = o)
end

