-- ==== Sys2Proof/Laws/Arith.lean ====
section
/-! SUPPORT. The integer functions of 41_tracker_ops.md R78 as word arithmetic, and the round trip of a channel
value through its two bytes (30_encoding.md R53). -/

namespace Sys2Proof.Machine

/-- GAP8 is the wrapping subtraction. -/
theorem gap8_eq_sub (s e : Byte) : gap8 s e = s - e := by
  have hs := s.isLt
  have he := e.isLt
  apply BitVec.eq_of_toNat_eq
  simp only [gap8, BitVec.toNat_ofInt, BitVec.toNat_sub]
  omega

/-- INC8 is the wrapping successor. -/
theorem inc8_eq_add (s : Byte) : inc8 s = s + 1 := by
  apply BitVec.eq_of_toNat_eq
  simp [inc8]

/-- ADD64 is the wrapping addition. -/
theorem add64_eq_add (a : Total) (n : Nat) : add64 a n = a + BitVec.ofNat 64 n := by
  apply BitVec.eq_of_toNat_eq
  simp [add64]

/-- The interval is the wrapping subtraction, at every width of a timestamp. -/
theorem intervalSince_eq_sub (a p : Time) : intervalSince a p = a - p := by
  have hp := p.isLt
  have hmod : ((a.toNat : Int) - p.toNat) % ((2 ^ Config.TSW : Nat) : Int) =
      ((2 ^ Config.TSW - p.toNat + a.toNat : Nat) : Int) % ((2 ^ Config.TSW : Nat) : Int) := by
    push_cast [hp.le]
    rw [show ((2 : Int) ^ Config.TSW - p.toNat + a.toNat) = (a.toNat - p.toNat) + 2 ^ Config.TSW by ring,
      Int.add_emod_right]
  apply BitVec.eq_of_toNat_eq
  rw [intervalSince, BitVec.toNat_ofInt, BitVec.toNat_sub, hmod, ← Int.natCast_mod, Int.toNat_natCast]

/-- The value S16 gives lies in the range of a signed sixteen-bit number. -/
theorem s16Value_range (lo hi : Byte) : -32768 ≤ s16Value lo hi ∧ s16Value lo hi ≤ 32767 := by
  have hl := lo.isLt
  have hh := hi.isLt
  simp only [s16Value]
  split <;> omega

/-- The sixteen bits of S16 read back as the value. -/
theorem toInt_s16 (lo hi : Byte) : (s16 lo hi).toInt = s16Value lo hi := by
  have h := s16Value_range lo hi
  rw [s16, BitVec.toInt_ofInt]
  apply Int.bmod_eq_of_le <;> norm_num <;> omega

/-- A channel value survives being split into its two bytes and reconstructed. -/
theorem s16_lowByte_highByte (a : Sample) : s16 (lowByte a) (highByte a) = a := by
  apply BitVec.eq_of_toInt_eq
  rw [toInt_s16]
  have h1 := BitVec.toInt_lt (x := a)
  have h2 := BitVec.le_toInt a
  have hl : ((lowByte a).toNat : Int) = a.toInt % 256 := by
    simp [lowByte, BitVec.toNat_ofInt]
    omega
  have hh : ((highByte a).toNat : Int) = a.toInt / 256 % 256 := by
    simp [highByte, BitVec.toNat_ofInt]
    omega
  norm_num at h1 h2
  simp only [s16Value]
  split <;> push_cast <;> omega

end Sys2Proof.Machine
end

