-- ==== Sys2Proof/Laws/Decode.lean ====
section
/-! SUPPORT. What the selection of 30_encoding.md R55 can answer, said once. -/

namespace Sys2Proof

/-- Every way an input selects an operation: rows 1 to 10 of R55. -/
theorem decodeInput_cases {c : Ctx} {inp : Input} {i : Instr} (h : decodeInput c inp = .ok i) :
    (inp = .reset ∧ i = .reset) ∨
    (c.halted = true ∧ inp ≠ .reset ∧ i = .hold) ∨
    (c.halted = false ∧ inp = .idle ∧ i = .idle) ∨
    (c.halted = false ∧ inp = .stop ∧ i = .stop) ∨
    (c.halted = false ∧ inp = .srcFail ∧ i = .srcFail) ∨
    (∃ b now, c.halted = false ∧ inp = .byte b now ∧
      ((c.st = .awaitingStart ∧ b = Config.marker ∧ i = .sof now) ∨
       (c.st = .awaitingStart ∧ b ≠ Config.marker ∧ i = .skip b) ∨
       (c.st = .readingPayload ∧ c.buf.length ≤ 4 ∧ i = .push b) ∨
       (c.st = .readingPayload ∧ c.buf.length = 5 ∧ b = bufSum c.buf ∧ i = .chkOk b) ∨
       (c.st = .readingPayload ∧ c.buf.length = 5 ∧ b ≠ bufSum c.buf ∧ i = .chkErr b))) := by
  cases hh : c.halted <;> cases inp <;>
    simp only [decodeInput, decodeByte, hh, if_true, Bool.false_eq_true, if_false] at h
  case false.byte b now =>
    cases hs : c.st <;> simp only [hs] at h <;> split_ifs at h <;> obtain rfl := Except.ok.inj h <;>
      simp_all
  all_goals obtain rfl := Except.ok.inj h
  all_goals simp

/-- An operation an input selects meets its row's condition. -/
theorem decodeInput_selects {c : Ctx} {inp : Input} {i : Instr} (h : decodeInput c inp = .ok i) :
    selects c i = true := by
  rcases decodeInput_cases h with ⟨rfl, rfl⟩ | ⟨hh, -, rfl⟩ | ⟨hh, rfl, rfl⟩ | ⟨hh, rfl, rfl⟩ |
    ⟨hh, rfl, rfl⟩ | ⟨b, now, hh, rfl, h'⟩
  · rfl
  case inr.inr.inr.inr.inr =>
    rcases h' with ⟨hs, -, rfl⟩ | ⟨hs, hb, rfl⟩ | ⟨hs, hl, rfl⟩ | ⟨hs, hl, hb, rfl⟩ | ⟨hs, hl, hb, rfl⟩ <;>
      simp_all [selects]
  all_goals simp [selects, hh]

/-- No input selects a tracker operation: it runs only inside CHK.OK (R55 rows 11 to 13). -/
theorem decodeInput_not_tracker {c : Ctx} {inp : Input} {i : Instr} (h : decodeInput c inp = .ok i) :
    rowFormat i ≠ 'T' := by
  rcases decodeInput_cases h with ⟨-, rfl⟩ | ⟨-, -, rfl⟩ | ⟨-, -, rfl⟩ | ⟨-, -, rfl⟩ | ⟨-, -, rfl⟩ |
    ⟨b, now, -, -, h'⟩
  case inr.inr.inr.inr.inr =>
    rcases h' with ⟨-, -, rfl⟩ | ⟨-, -, rfl⟩ | ⟨-, -, rfl⟩ | ⟨-, -, -, rfl⟩ | ⟨-, -, -, rfl⟩ <;>
      simp [rowFormat]
  all_goals decide

/-- The selection fails only at a position R24 rules out. -/
theorem decodeInput_error {c : Ctx} {inp : Input} {r : Reject} (h : decodeInput c inp = .error r) :
    c.halted = false ∧ c.st = .readingPayload ∧ 6 ≤ c.buf.length := by
  cases hh : c.halted <;> cases inp <;>
    simp only [decodeInput, decodeByte, hh, if_true, Bool.false_eq_true, if_false] at h
  case false.byte b now =>
    cases hs : c.st <;> simp only [hs] at h <;> split_ifs at h
    exact ⟨rfl, rfl, by omega⟩
  all_goals cases h

/-- The selected tracker operation meets its row's condition. -/
theorem selectTracker_selects (c : Ctx) (q : Byte) (c1 c2 : Sample) (a : Time) :
    selects c (selectTracker c.exp q c1 c2 a) = true := by
  unfold selectTracker
  split
  · next h => simp [selects, h]
  · next e h =>
    split
    · next hq => simp [selects, h, hq]
    · next hq => simp [selects, h, Ne.symm hq]

end Sys2Proof
end

