-- ==== Sys2Proof/Laws/State.lean ====
section
/-! SUPPORT. What each named operation leaves in each field of the state, one lemma per field and operation, so
that no later proof unfolds a record update; and the spec lemma of the guard. -/

namespace Sys2Proof.Machine

variable (s : State) (o : Output) (b : Byte) (now : Time) (target : SyncState) (failed : Bool)

@[simp] theorem emit_st : (s.emit o).st = s.st := rfl
@[simp] theorem emit_buf : (s.emit o).buf = s.buf := rfl
@[simp] theorem emit_ts : (s.emit o).ts = s.ts := rfl
@[simp] theorem emit_exp : (s.emit o).exp = s.exp := rfl
@[simp] theorem emit_totalValid : (s.emit o).totalValid = s.totalValid := rfl
@[simp] theorem emit_totalLost : (s.emit o).totalLost = s.totalLost := rfl
@[simp] theorem emit_prevTs : (s.emit o).prevTs = s.prevTs := rfl
@[simp] theorem emit_halted : (s.emit o).halted = s.halted := rfl
@[simp] theorem emit_fatal : (s.emit o).fatal = s.fatal := rfl
@[simp] theorem emit_started : (s.emit o).started = s.started := rfl
@[simp] theorem emit_inputs : (s.emit o).inputs = s.inputs := rfl
@[simp] theorem emit_out : (s.emit o).out = s.out ++ [o] := rfl

@[simp] theorem clearOut_st : s.clearOut.st = s.st := rfl
@[simp] theorem clearOut_buf : s.clearOut.buf = s.buf := rfl
@[simp] theorem clearOut_ts : s.clearOut.ts = s.ts := rfl
@[simp] theorem clearOut_exp : s.clearOut.exp = s.exp := rfl
@[simp] theorem clearOut_totalValid : s.clearOut.totalValid = s.totalValid := rfl
@[simp] theorem clearOut_totalLost : s.clearOut.totalLost = s.totalLost := rfl
@[simp] theorem clearOut_prevTs : s.clearOut.prevTs = s.prevTs := rfl
@[simp] theorem clearOut_halted : s.clearOut.halted = s.halted := rfl
@[simp] theorem clearOut_fatal : s.clearOut.fatal = s.fatal := rfl
@[simp] theorem clearOut_started : s.clearOut.started = s.started := rfl
@[simp] theorem clearOut_inputs : s.clearOut.inputs = s.inputs := rfl
@[simp] theorem clearOut_out : s.clearOut.out = [] := rfl

@[simp] theorem append_st : (s.append b).st = s.st := rfl
@[simp] theorem append_buf : (s.append b).buf = s.buf ++ [b] := rfl
@[simp] theorem append_ts : (s.append b).ts = s.ts := rfl
@[simp] theorem append_exp : (s.append b).exp = s.exp := rfl
@[simp] theorem append_totalValid : (s.append b).totalValid = s.totalValid := rfl
@[simp] theorem append_totalLost : (s.append b).totalLost = s.totalLost := rfl
@[simp] theorem append_prevTs : (s.append b).prevTs = s.prevTs := rfl
@[simp] theorem append_halted : (s.append b).halted = s.halted := rfl
@[simp] theorem append_fatal : (s.append b).fatal = s.fatal := rfl
@[simp] theorem append_started : (s.append b).started = s.started := rfl
@[simp] theorem append_inputs : (s.append b).inputs = s.inputs := rfl
@[simp] theorem append_out : (s.append b).out = s.out := rfl

@[simp] theorem goto_st : (s.goto target).st = target := rfl
@[simp] theorem goto_buf : (s.goto target).buf = s.buf := rfl
@[simp] theorem goto_ts : (s.goto target).ts = s.ts := rfl
@[simp] theorem goto_exp : (s.goto target).exp = s.exp := rfl
@[simp] theorem goto_totalValid : (s.goto target).totalValid = s.totalValid := rfl
@[simp] theorem goto_totalLost : (s.goto target).totalLost = s.totalLost := rfl
@[simp] theorem goto_prevTs : (s.goto target).prevTs = s.prevTs := rfl
@[simp] theorem goto_halted : (s.goto target).halted = s.halted := rfl
@[simp] theorem goto_fatal : (s.goto target).fatal = s.fatal := rfl
@[simp] theorem goto_started : (s.goto target).started = s.started := rfl
@[simp] theorem goto_inputs : (s.goto target).inputs = s.inputs := rfl
@[simp] theorem goto_out : (s.goto target).out = s.out := rfl

@[simp] theorem acceptMarker_st : (s.acceptMarker now).st = .readingPayload := rfl
@[simp] theorem acceptMarker_buf : (s.acceptMarker now).buf = [] := rfl
@[simp] theorem acceptMarker_ts : (s.acceptMarker now).ts = now := rfl
@[simp] theorem acceptMarker_exp : (s.acceptMarker now).exp = s.exp := rfl
@[simp] theorem acceptMarker_totalValid : (s.acceptMarker now).totalValid = s.totalValid := rfl
@[simp] theorem acceptMarker_totalLost : (s.acceptMarker now).totalLost = s.totalLost := rfl
@[simp] theorem acceptMarker_prevTs : (s.acceptMarker now).prevTs = s.prevTs := rfl
@[simp] theorem acceptMarker_halted : (s.acceptMarker now).halted = s.halted := rfl
@[simp] theorem acceptMarker_fatal : (s.acceptMarker now).fatal = s.fatal := rfl
@[simp] theorem acceptMarker_started : (s.acceptMarker now).started = s.started := rfl
@[simp] theorem acceptMarker_inputs : (s.acceptMarker now).inputs = s.inputs := rfl
@[simp] theorem acceptMarker_out : (s.acceptMarker now).out = s.out := rfl

@[simp] theorem expectAfter_st : (s.expectAfter b).st = s.st := rfl
@[simp] theorem expectAfter_buf : (s.expectAfter b).buf = s.buf := rfl
@[simp] theorem expectAfter_ts : (s.expectAfter b).ts = s.ts := rfl
@[simp] theorem expectAfter_exp : (s.expectAfter b).exp = some (inc8 b) := rfl
@[simp] theorem expectAfter_totalValid : (s.expectAfter b).totalValid = s.totalValid := rfl
@[simp] theorem expectAfter_totalLost : (s.expectAfter b).totalLost = s.totalLost := rfl
@[simp] theorem expectAfter_prevTs : (s.expectAfter b).prevTs = s.prevTs := rfl
@[simp] theorem expectAfter_halted : (s.expectAfter b).halted = s.halted := rfl
@[simp] theorem expectAfter_fatal : (s.expectAfter b).fatal = s.fatal := rfl
@[simp] theorem expectAfter_started : (s.expectAfter b).started = s.started := rfl
@[simp] theorem expectAfter_inputs : (s.expectAfter b).inputs = s.inputs := rfl
@[simp] theorem expectAfter_out : (s.expectAfter b).out = s.out := rfl

@[simp] theorem countLost_st : (s.countLost b).st = s.st := rfl
@[simp] theorem countLost_buf : (s.countLost b).buf = s.buf := rfl
@[simp] theorem countLost_ts : (s.countLost b).ts = s.ts := rfl
@[simp] theorem countLost_exp : (s.countLost b).exp = s.exp := rfl
@[simp] theorem countLost_totalValid : (s.countLost b).totalValid = s.totalValid := rfl
@[simp] theorem countLost_totalLost : (s.countLost b).totalLost = add64 s.totalLost b.toNat := rfl
@[simp] theorem countLost_prevTs : (s.countLost b).prevTs = s.prevTs := rfl
@[simp] theorem countLost_halted : (s.countLost b).halted = s.halted := rfl
@[simp] theorem countLost_fatal : (s.countLost b).fatal = s.fatal := rfl
@[simp] theorem countLost_started : (s.countLost b).started = s.started := rfl
@[simp] theorem countLost_inputs : (s.countLost b).inputs = s.inputs := rfl
@[simp] theorem countLost_out : (s.countLost b).out = s.out ++ [.lost b] := rfl

@[simp] theorem startSession_st : s.startSession.st = .awaitingStart := rfl
@[simp] theorem startSession_buf : s.startSession.buf = [] := rfl
@[simp] theorem startSession_ts : s.startSession.ts = 0 := rfl
@[simp] theorem startSession_exp : s.startSession.exp = none := rfl
@[simp] theorem startSession_totalValid : s.startSession.totalValid = 0 := rfl
@[simp] theorem startSession_totalLost : s.startSession.totalLost = 0 := rfl
@[simp] theorem startSession_prevTs : s.startSession.prevTs = 0 := rfl
@[simp] theorem startSession_halted : s.startSession.halted = false := rfl
@[simp] theorem startSession_fatal : s.startSession.fatal = false := rfl
@[simp] theorem startSession_started : s.startSession.started = true := rfl
@[simp] theorem startSession_inputs : s.startSession.inputs = s.inputs := rfl
@[simp] theorem startSession_out : s.startSession.out = s.out := rfl

@[simp] theorem endSession_st : (s.endSession failed).st = .awaitingStart := rfl
@[simp] theorem endSession_buf : (s.endSession failed).buf = s.buf := rfl
@[simp] theorem endSession_ts : (s.endSession failed).ts = s.ts := rfl
@[simp] theorem endSession_exp : (s.endSession failed).exp = s.exp := rfl
@[simp] theorem endSession_totalValid : (s.endSession failed).totalValid = s.totalValid := rfl
@[simp] theorem endSession_totalLost : (s.endSession failed).totalLost = s.totalLost := rfl
@[simp] theorem endSession_prevTs : (s.endSession failed).prevTs = s.prevTs := rfl
@[simp] theorem endSession_halted : (s.endSession failed).halted = true := rfl
@[simp] theorem endSession_fatal : (s.endSession failed).fatal = (s.fatal || failed) := rfl
@[simp] theorem endSession_started : (s.endSession failed).started = s.started := rfl
@[simp] theorem endSession_inputs : (s.endSession failed).inputs = s.inputs := rfl
@[simp] theorem endSession_out :
    (s.endSession failed).out = s.out ++ [.summary s.totalValid s.totalLost failed] := rfl

variable (q : Byte) (c1 c2 : Sample) (a : Time) (first : Bool)

@[simp] theorem acceptSample_st : (s.acceptSample q c1 c2 a first).st = s.st := rfl
@[simp] theorem acceptSample_buf : (s.acceptSample q c1 c2 a first).buf = s.buf := rfl
@[simp] theorem acceptSample_ts : (s.acceptSample q c1 c2 a first).ts = s.ts := rfl
@[simp] theorem acceptSample_exp : (s.acceptSample q c1 c2 a first).exp = s.exp := rfl
@[simp] theorem acceptSample_totalValid :
    (s.acceptSample q c1 c2 a first).totalValid = add64 s.totalValid 1 := rfl
@[simp] theorem acceptSample_totalLost : (s.acceptSample q c1 c2 a first).totalLost = s.totalLost := rfl
@[simp] theorem acceptSample_prevTs : (s.acceptSample q c1 c2 a first).prevTs = a := rfl
@[simp] theorem acceptSample_halted : (s.acceptSample q c1 c2 a first).halted = s.halted := rfl
@[simp] theorem acceptSample_fatal : (s.acceptSample q c1 c2 a first).fatal = s.fatal := rfl
@[simp] theorem acceptSample_started : (s.acceptSample q c1 c2 a first).started = s.started := rfl
@[simp] theorem acceptSample_inputs : (s.acceptSample q c1 c2 a first).inputs = s.inputs := rfl
@[simp] theorem acceptSample_out :
    (s.acceptSample q c1 c2 a first).out
      = s.out ++ [.sampleDecoded (s.sampleRecord q c1 c2 a first)] := rfl

@[simp] theorem ctx_halted : s.ctx.halted = s.halted := rfl
@[simp] theorem ctx_st : s.ctx.st = s.st := rfl
@[simp] theorem ctx_buf : s.ctx.buf = s.buf := rfl
@[simp] theorem ctx_exp : s.ctx.exp = s.exp := rfl

/-- All a guarded operation can do: it answers its state exactly where its row of R55 selects it. -/
theorem whenSelected_next_iff (i : Instr) (s t u : State) :
    whenSelected i s t = .next u ↔ selects s.ctx i = true ∧ u = t := by
  unfold whenSelected
  split <;> simp [*, eq_comm]

/-- Where the row selects the operation, the guard lets it through. -/
theorem whenSelected_of_selects {i : Instr} {s : State} (t : State) (h : selects s.ctx i = true) :
    whenSelected i s t = .next t := by
  simp [whenSelected, h]

/-- A guarded operation never faults. -/
theorem whenSelected_ne_fault (i : Instr) (s t : State) (r : Fault) : whenSelected i s t ≠ .fault r := by
  unfold whenSelected
  split <;> simp

end Sys2Proof.Machine
end

