-- ==== Sys2Proof/Laws/Exec.lean ====
section
/-! SUPPORT. What each operation answers, said once: the provers cite these and do not unfold a meaning. -/

namespace Sys2Proof.Machine

/-- The state a tracker operation leaves, by the three rows 11 to 13 of R55. -/
theorem trackSample_eq (o : FrameOperands) (a : Time) (s : State) :
    trackSample o a s = .next
      (match s.exp with
       | none => (s.expectAfter o.sequence).acceptSample o.sequence o.ch1 o.ch2 a true
       | some e =>
         if o.sequence = e then (s.expectAfter e).acceptSample o.sequence o.ch1 o.ch2 a false
         else ((s.countLost (gap8 o.sequence e)).expectAfter o.sequence).acceptSample
           o.sequence o.ch1 o.ch2 a false) := by
  cases h : s.exp with
  | none =>
    have hsel : selects s.ctx (.trkFirst o.sequence o.ch1 o.ch2 a) = true := by simp [selects, h]
    simp only [trackSample, h, execTrkFirst]
    exact whenSelected_of_selects _ hsel
  | some e =>
    by_cases hq : o.sequence = e
    · have hsel : selects s.ctx (.trkSeq o.sequence o.ch1 o.ch2 a) = true := by simp [selects, h, hq]
      simp only [trackSample, h, if_pos hq, execTrkSeq]
      exact whenSelected_of_selects _ hsel
    · have hsel : selects s.ctx (.trkGap o.sequence o.ch1 o.ch2 a) = true := by
        simp [selects, h, Ne.symm hq]
      simp only [trackSample, h, if_neg hq, execTrkGap]
      exact whenSelected_of_selects _ hsel

/-- The tracker sub-step of CHK.OK is the tracker operation the table selects. -/
theorem trackSample_eq_exec (o : FrameOperands) (a : Time) (s : State) :
    trackSample o a s = exec (selectTracker s.exp o.sequence o.ch1 o.ch2 a) s := by
  cases h : s.exp with
  | none => simp only [trackSample, selectTracker, h, exec]
  | some e =>
    by_cases hq : o.sequence = e
    · simp only [trackSample, selectTracker, h, if_pos hq, exec]
    · simp only [trackSample, selectTracker, h, if_neg hq, exec]

/-- CHK.OK in the state its row names: the tracker operation on the appended buffer, back in AwaitingStart. -/
theorem execChkOk_eq {s : State} {c l1 h1 l2 h2 b : Byte} (hh : s.halted = false)
    (hs : s.st = .readingPayload) (hb : s.buf = [c, l1, h1, l2, h2]) (hk : b = cksum [c, l1, h1, l2, h2]) :
    execChkOk b s =
      trackSample { sequence := c, ch1 := s16 l1 h1, ch2 := s16 l2 h2 } s.ts
        ((s.append b).goto .awaitingStart) := by
  simp [execChkOk, selects, hh, hs, hb, hk, bufSum, Config.sumLen, frameOperands]

/-- An operation that answers a next state was selected by its row. -/
theorem selects_of_exec_next {i : Instr} {s t : State} (h : exec i s = .next t) :
    selects s.ctx i = true := by
  cases i
  case chkOk b =>
    by_contra hc
    simp [exec, execChkOk, hc] at h
  case trkSeq q c1 c2 a =>
    simp only [exec, execTrkSeq] at h
    split at h
    · cases h
    · exact ((whenSelected_next_iff _ _ _ _).1 h).1
  case trkGap q c1 c2 a =>
    simp only [exec, execTrkGap] at h
    split at h
    · cases h
    · exact ((whenSelected_next_iff _ _ _ _).1 h).1
  case reset => rfl
  all_goals exact ((whenSelected_next_iff _ _ _ _).1 h).1

/-- A list of five bytes, taken apart. -/
theorem five_bytes {p : List Byte} (h : p.length = 5) : ∃ c l1 h1 l2 h2, p = [c, l1, h1, l2, h2] := by
  match p, h with
  | [c, l1, h1, l2, h2], _ => exact ⟨c, l1, h1, l2, h2, rfl⟩

/-- CHK.OK where its row selects it, in terms of the five buffered bytes. -/
theorem execChkOk_next_cases {b : Byte} {s t : State} (h : execChkOk b s = .next t) :
    ∃ c l1 h1 l2 h2, s.halted = false ∧ s.st = .readingPayload ∧ s.buf = [c, l1, h1, l2, h2] ∧
      b = cksum [c, l1, h1, l2, h2] ∧
      trackSample { sequence := c, ch1 := s16 l1 h1, ch2 := s16 l2 h2 } s.ts
        ((s.append b).goto .awaitingStart) = .next t := by
  have hsel := selects_of_exec_next (i := .chkOk b) h
  simp only [selects, ctx_halted, ctx_st, ctx_buf, Bool.and_eq_true, Bool.not_eq_true', beq_iff_eq] at hsel
  obtain ⟨⟨⟨hh, hs⟩, hl⟩, hk⟩ := hsel
  obtain ⟨c, l1, h1, l2, h2, hb⟩ := five_bytes hl
  have hk' : b = cksum [c, l1, h1, l2, h2] := by simpa [hb, bufSum, Config.sumLen] using hk
  refine ⟨c, l1, h1, l2, h2, hh, hs, hb, hk', ?_⟩
  rw [← execChkOk_eq hh hs hb hk', h]

/-- All an operation can do, said once: where it answers a next state its row's condition held, and the state is
this one. CHK.OK is a tracker operation on the appended buffer; every invariant follows from this by cases. -/
theorem exec_next_cases {i : Instr} {s t : State} (h : exec i s = .next t) :
    (∃ now, i = .sof now ∧ s.halted = false ∧ s.st = .awaitingStart ∧ t = s.acceptMarker now) ∨
    (∃ b, i = .skip b ∧ s.halted = false ∧ s.st = .awaitingStart ∧ b ≠ Config.marker ∧ t = s) ∨
    (∃ b, i = .push b ∧ s.halted = false ∧ s.st = .readingPayload ∧ s.buf.length ≤ 4 ∧ t = s.append b) ∨
    (∃ b c l1 h1 l2 h2, i = .chkOk b ∧ s.halted = false ∧ s.st = .readingPayload ∧
      s.buf = [c, l1, h1, l2, h2] ∧ b = cksum [c, l1, h1, l2, h2] ∧
      exec (selectTracker s.exp c (s16 l1 h1) (s16 l2 h2) s.ts) ((s.append b).goto .awaitingStart) = .next t) ∨
    (∃ b, i = .chkErr b ∧ s.halted = false ∧ s.st = .readingPayload ∧ s.buf.length = 5 ∧ b ≠ bufSum s.buf ∧
      t = ((s.append b).goto .awaitingStart).emit .checksumError) ∨
    (∃ q c1 c2 a, i = .trkFirst q c1 c2 a ∧ s.exp = none ∧
      t = (s.expectAfter q).acceptSample q c1 c2 a true) ∨
    (∃ q c1 c2 a, i = .trkSeq q c1 c2 a ∧ s.exp = some q ∧
      t = (s.expectAfter q).acceptSample q c1 c2 a false) ∨
    (∃ q c1 c2 a e, i = .trkGap q c1 c2 a ∧ s.exp = some e ∧ q ≠ e ∧
      t = ((s.countLost (gap8 q e)).expectAfter q).acceptSample q c1 c2 a false) ∨
    (i = .reset ∧ t = s.startSession) ∨
    (i = .idle ∧ s.halted = false ∧ t = s) ∨
    (i = .stop ∧ s.halted = false ∧ t = s.endSession false) ∨
    (i = .srcFail ∧ s.halted = false ∧ t = s.endSession true) ∨
    (i = .hold ∧ s.halted = true ∧ t = s) := by
  have hsel := selects_of_exec_next h
  cases i
  case chkOk b =>
    obtain ⟨c, l1, h1, l2, h2, hh, hs, hb, hk, ht⟩ := execChkOk_next_cases h
    rw [trackSample_eq_exec] at ht
    exact .inr (.inr (.inr (.inl ⟨b, c, l1, h1, l2, h2, rfl, hh, hs, hb, hk, ht⟩)))
  case trkSeq q c1 c2 a =>
    have he : s.exp = some q := by simpa [selects] using hsel
    simp only [exec, execTrkSeq, he] at h
    have ht := ((whenSelected_next_iff _ _ _ _).1 h).2
    simp [he, ht]
  case trkGap q c1 c2 a =>
    cases he : s.exp with
    | none => simp [selects, he] at hsel
    | some e =>
      have hq : q ≠ e := fun hqe => by simp [selects, he, hqe] at hsel
      simp only [exec, execTrkGap, he] at h
      have ht := ((whenSelected_next_iff _ _ _ _).1 h).2
      simp [hq, ht]
  case reset =>
    cases h
    simp
  all_goals
    have ht := ((whenSelected_next_iff _ _ _ _).1 h).2
    simp_all [selects]

/-- A tracker operation, whichever the table selects, always answers. -/
theorem exec_selectTracker_eq (q : Byte) (c1 c2 : Sample) (a : Time) (s : State) :
    exec (selectTracker s.exp q c1 c2 a) s = .next
      (match s.exp with
       | none => (s.expectAfter q).acceptSample q c1 c2 a true
       | some e =>
         if q = e then (s.expectAfter e).acceptSample q c1 c2 a false
         else ((s.countLost (gap8 q e)).expectAfter q).acceptSample q c1 c2 a false) := by
  rw [← trackSample_eq_exec { sequence := q, ch1 := c1, ch2 := c2 } a s, trackSample_eq]

/-- Where its row selects it, every operation answers a next state. -/
theorem exec_next_of_selects {i : Instr} {s : State} (h : selects s.ctx i = true) :
    ∃ t, exec i s = .next t := by
  cases i
  case chkOk b =>
    simp only [selects, ctx_halted, ctx_st, ctx_buf, Bool.and_eq_true, Bool.not_eq_true', beq_iff_eq] at h
    obtain ⟨⟨⟨hh, hs⟩, hl⟩, hk⟩ := h
    obtain ⟨c, l1, h1, l2, h2, hb⟩ := five_bytes hl
    have hk' : b = cksum [c, l1, h1, l2, h2] := by simpa [hb, bufSum, Config.sumLen] using hk
    exact ⟨_, (execChkOk_eq hh hs hb hk').trans (trackSample_eq _ _ _)⟩
  case trkSeq q c1 c2 a =>
    have he : s.exp = some q := by simpa [selects] using h
    simp only [exec, execTrkSeq, he]
    exact ⟨_, whenSelected_of_selects _ h⟩
  case trkGap q c1 c2 a =>
    cases he : s.exp with
    | none => simp [selects, he] at h
    | some e =>
      simp only [exec, execTrkGap, he]
      exact ⟨_, whenSelected_of_selects _ h⟩
  all_goals exact ⟨_, whenSelected_of_selects _ h⟩

/-- A delivered input that answers a next state performs the operation it selects. -/
theorem deliver_next_cases {inp : Input} {s t : State} (h : deliver inp s = .next t) :
    ∃ i, (s.started = true ∨ inp = .reset) ∧ decodeInput s.ctx inp = .ok i ∧ exec i s.clearOut = .next t := by
  have hc : s.clearOut.ctx = s.ctx := rfl
  simp only [deliver, perform, clearOut_started, hc] at h
  split at h
  · next hst =>
    split at h
    · next i hi => exact ⟨i, by simpa using hst, hi, h⟩
    · cases h
  · cases h

/-- Once a session has begun, an input that selects an operation performs it. -/
theorem deliver_eq_exec {inp : Input} {s : State} {i : Instr} (hs : s.started = true ∨ inp = .reset)
    (h : decodeInput s.ctx inp = .ok i) : deliver inp s = exec i s.clearOut := by
  have hc : s.clearOut.ctx = s.ctx := rfl
  have hst : (s.started || inp == .reset) = true := by simpa using hs
  simp only [deliver, perform, clearOut_started, hc, hst, if_true, h]

/-- A run of one input more. -/
theorem runInputs_cons_next {s t u : State} {inp : Input} {rest : List Input} {outs : List Output}
    (h : deliver inp s = .next t) (hr : runInputs t rest = .next (u, outs)) :
    runInputs s (inp :: rest) = .next (u, t.out ++ outs) := by
  simp only [runInputs, h, hr]

/-- A run that ends in a state went through its first input. -/
theorem runInputs_cons_cases {s u : State} {inp : Input} {rest : List Input} {outs : List Output}
    (h : runInputs s (inp :: rest) = .next (u, outs)) :
    ∃ t outs', deliver inp s = .next t ∧ runInputs t rest = .next (u, outs') ∧ outs = t.out ++ outs' := by
  simp only [runInputs] at h
  split at h
  · next t ht =>
    split at h
    · next u' outs' hr =>
      cases h
      exact ⟨t, outs', ht, hr, rfl⟩
    all_goals cases h
  all_goals cases h

end Sys2Proof.Machine
end

