-- ==== Sys2Proof/Laws/PerInstr.lean ====
section
/-! SUPPORT. Per operation: its word has the format its row of spec/opcode_table.json names, and fits the row's
constant match and mask (30_encoding.md R59: the word fits when `w AND mask = match`). -/

namespace Sys2Proof.Laws.EncodedForm

/-- The word of the operation has its row's format and fits its row's pattern. -/
def Statement (i : Instr) : Prop :=
  formatOf (encode i) = rowFormat i ∧ wordBits (encode i) &&& (rowMatchMask i).2 = (rowMatchMask i).1

theorem sof (now : Time) : Statement (.sof now) := ⟨rfl, by simp [wordBits, encode, rowMatchMask]⟩
theorem skip (b : Byte) : Statement (.skip b) := ⟨rfl, Nat.and_zero _⟩
theorem push (b : Byte) : Statement (.push b) := ⟨rfl, Nat.and_zero _⟩
theorem chkOk (b : Byte) : Statement (.chkOk b) := ⟨rfl, Nat.and_zero _⟩
theorem chkErr (b : Byte) : Statement (.chkErr b) := ⟨rfl, Nat.and_zero _⟩
theorem trkFirst (q : Byte) (c1 c2 : Sample) (a : Time) : Statement (.trkFirst q c1 c2 a) :=
  ⟨rfl, Nat.and_zero _⟩
theorem trkSeq (q : Byte) (c1 c2 : Sample) (a : Time) : Statement (.trkSeq q c1 c2 a) :=
  ⟨rfl, Nat.and_zero _⟩
theorem trkGap (q : Byte) (c1 c2 : Sample) (a : Time) : Statement (.trkGap q c1 c2 a) :=
  ⟨rfl, Nat.and_zero _⟩
theorem reset : Statement .reset := ⟨rfl, by decide⟩
theorem idle : Statement .idle := ⟨rfl, by decide⟩
theorem stop : Statement .stop := ⟨rfl, by decide⟩
theorem srcFail : Statement .srcFail := ⟨rfl, by decide⟩
theorem hold : Statement .hold := ⟨rfl, by decide⟩

end Sys2Proof.Laws.EncodedForm
end

