-- ==== Sys2Proof/Laws/Pins.lean ====
section
/-! SUPPORT. What a run of clock cycles answers, and which outputs the strobes of a cycle show. -/

namespace Sys2Proof.Machine

/-- A run of cycles that answers: the first cycle, then the run of the rest from the state it leaves. -/
theorem runCycles_cons_cases {s : State} {p : Pins} {rest : List Pins} {after : List State}
    (h : runCycles s (p :: rest) = .next after) :
    ∃ t after', cycle p s = .next t ∧ runCycles t rest = .next after' ∧ after = t :: after' := by
  simp only [runCycles] at h
  split at h
  · next t ht =>
    split at h
    · next after' hr =>
      cases h
      exact ⟨t, after', ht, hr, rfl⟩
    · cases h
    · cases h
  · cases h
  · cases h

/-- Before the latency has passed the strobes show nothing. -/
theorem shownAt_of_lt {latency k : Nat} (h : k < latency) (outs : List (List Output)) : shownAt latency outs k = [] :=
  if_pos h

/-- The strobes show the outputs of the cycle `latency` cycles earlier. -/
theorem shownAt_add (latency j : Nat) (outs : List (List Output)) :
    shownAt latency outs (j + latency) = (outs[j]?).getD [] := by
  simp [shownAt]

/-- What the totals ports show: the state's totals, and no summary among the outputs, or the values of one that is. -/
theorem totalsShown_cases (s : State) (shown : List Output) :
    (summaryStrobe shown = false ∧ totalsShown s shown = (s.totalValid, s.totalLost)) ∨
    ∃ v l f, .summary v l f ∈ shown ∧ totalsShown s shown = (v, l) := by
  induction shown with
  | nil => exact .inl ⟨rfl, rfl⟩
  | cons x xs ih =>
    cases x with
    | summary v l f => exact .inr ⟨v, l, f, List.mem_cons_self, rfl⟩
    | sampleDecoded _ | checksumError | lost _ =>
      rcases ih with ⟨h, ht⟩ | ⟨v, l, f, h, ht⟩
      · exact .inl ⟨by simpa [summaryStrobe] using h, ht⟩
      · exact .inr ⟨v, l, f, List.mem_cons_of_mem _ h, ht⟩

end Sys2Proof.Machine
end

