-- ==== Sys2Proof/Laws/Safety.lean ====
section
/-! SUPPORT. The counts of Sys2Proof/Safety.lean over joined output lists, and what CHK.OK leaves, spelled out by the
tracker operation it selects. -/

namespace Sys2Proof.Machine

theorem recordsOf_append (a b : List Output) : recordsOf (a ++ b) = recordsOf a ++ recordsOf b := by
  induction a with
  | nil => rfl
  | cons x xs ih => cases x <;> simp [recordsOf, ih]

theorem gapsOf_append (a b : List Output) : gapsOf (a ++ b) = gapsOf a ++ gapsOf b := by
  induction a with
  | nil => rfl
  | cons x xs ih => cases x <;> simp [gapsOf, ih]

theorem summaryCount_append (a b : List Output) :
    summaryCount (a ++ b) = summaryCount a + summaryCount b := by
  induction a with
  | nil => simp [summaryCount]
  | cons x xs ih => cases x <;> simp [summaryCount, ih]; omega

theorem checksumErrorCount_append (a b : List Output) :
    checksumErrorCount (a ++ b) = checksumErrorCount a + checksumErrorCount b := by
  induction a with
  | nil => simp [checksumErrorCount]
  | cons x xs ih => cases x <;> simp [checksumErrorCount, ih]; omega

/-- What CHK.OK leaves, when it answers a next state: the tail of the tracker operation that `exp` selects. -/
theorem execChkOk_next_by_exp {b : Byte} {s t : State} (h : exec (.chkOk b) s = .next t) :
    ∃ c l1 h1 l2 h2, s.buf = [c, l1, h1, l2, h2] ∧ b = cksum [c, l1, h1, l2, h2] ∧
      t = match s.exp with
        | none => (((s.append b).goto .awaitingStart).expectAfter c).acceptSample
            c (s16 l1 h1) (s16 l2 h2) s.ts true
        | some e =>
          if c = e then (((s.append b).goto .awaitingStart).expectAfter c).acceptSample
            c (s16 l1 h1) (s16 l2 h2) s.ts false
          else ((((s.append b).goto .awaitingStart).countLost (gap8 c e)).expectAfter c).acceptSample
            c (s16 l1 h1) (s16 l2 h2) s.ts false := by
  obtain ⟨c, l1, h1, l2, h2, -, -, hb, hk, ht⟩ := execChkOk_next_cases h
  refine ⟨c, l1, h1, l2, h2, hb, hk, ?_⟩
  rw [trackSample_eq] at ht
  cases he : s.exp with
  | none => simpa [he] using ht.symm
  | some e =>
    by_cases hc : c = e
    · simpa [he, hc] using ht.symm
    · simpa [he, hc] using ht.symm

end Sys2Proof.Machine
end

