-- ==== Sys2Proof/Tests/Slice0.lean ====
section
/-! SUPPORT. The model's own tests. Expected values are those of 95_test_vectors.md (its section is named at each
test) or are worked out by hand from the rule named; none is the model's own answer. The last part holds, for every
obligation with hypotheses, a concrete state and operands that meet them. -/

namespace Sys2Proof.Tests

open Sys2Proof.Machine

/-! ### Well-formedness: the one check, refused and passed (R63) -/

theorem test_wellFormed_refuses_skip_of_marker : (Instr.skip 0xAA).wellFormed = false := by decide
theorem test_wellFormed_passes_neighbours_of_marker :
    (Instr.skip 0xAB).wellFormed = true ∧ (Instr.skip 0xA9).wellFormed = true ∧
    (Instr.skip 0x00).wellFormed = true ∧ (Instr.skip 0xFF).wellFormed = true := by decide
theorem test_wellFormed_passes_push_of_marker : (Instr.push 0xAA).wellFormed = true := by decide

/-! ### Small states -/

/-- After a marker at time 50, with these bytes buffered. -/
def reading (buf : List Byte) : State :=
  { State.reset with st := .readingPayload, buf := buf, ts := 50 }

/-- A tracker state of 95_test_vectors.md section 2.3: (exp, total_valid, total_lost, prev_ts). -/
def tracking (exp : Option Byte) (totalValid totalLost : Total) (prevTs : Time) : State :=
  { State.reset with exp := exp, totalValid := totalValid, totalLost := totalLost, prevTs := prevTs }

/-- An ended session. -/
def ended (fatal : Bool) : State :=
  { State.reset with halted := true, fatal := fatal }

/-- An ended session that dropped a frame of two bytes. -/
def dropped : State :=
  { State.reset with buf := [7, 0x10], ts := 50, halted := true }

/-- The next state of an outcome. -/
def next (o : Host.Outcome State Fault Refusal) : Option State :=
  match o with
  | .next t => some t
  | .fault _ => none
  | .refused _ => none

/-- The operation decoded, for comparison. -/
def decoded (r : Except Reject Instr) : Option Instr :=
  match r with
  | .ok i => some i
  | .error _ => none

/-- (st, buf, ts) and the outputs of an outcome, the columns of section 2.2. -/
def decoderView (o : Host.Outcome State Fault Refusal) : Option (SyncState × List Byte × Time × List Output) :=
  (next o).map fun t => (t.st, t.buf, t.ts, t.out)

/-- (exp, total_valid, total_lost, prev_ts) of an outcome, the columns of section 2.3. -/
def lossView (o : Host.Outcome State Fault Refusal) : Option (Option Byte × Total × Total × Time) :=
  (next o).map fun t => (t.exp, t.totalValid, t.totalLost, t.prevTs)

/-- The operands of the records of an outcome: sequence, channels as integers. -/
def samplesView (o : Host.Outcome State Fault Refusal) : Option (List (Byte × Int × Int)) :=
  (next o).map fun t => (recordsOf t.out).map fun r => (r.sequence, r.ch1.toInt, r.ch2.toInt)

/-- The arrival times of the records of an outcome. -/
def arrivalView (o : Host.Outcome State Fault Refusal) : Option (List Time) :=
  (next o).map fun t => (recordsOf t.out).map fun r => r.arrivalTime

/-- (gaps, intervals with the flag first) of an outcome. -/
def timingView (o : Host.Outcome State Fault Refusal) : Option (List Byte × List (Time × Bool)) :=
  (next o).map fun t => (gapsOf t.out, (recordsOf t.out).map fun r => (r.interval, r.first))

/-! ### Decoding: words written out from the encodings (30_encoding.md section 4), one per operation -/

theorem test_decode_sof : decoded (decode State.reset.ctx (.b 0b10101010#8 5)) = some (.sof 5) := rfl
theorem test_decode_skip : decoded (decode State.reset.ctx (.b 0b10101000#8 5)) = some (.skip 0xA8) := by decide
theorem test_decode_push : decoded (decode (reading [1, 0, 0, 0]).ctx (.b 0b10101010#8 5)) = some (.push 0xAA) := by
  decide
theorem test_decode_chkOk :
    decoded (decode (reading [0xFF, 0xFF, 0xFF, 0xFF, 0xFF]).ctx (.b 0b11111011#8 5)) = some (.chkOk 0xFB) := by
  decide
theorem test_decode_chkErr :
    decoded (decode (reading [0xFF, 0xFF, 0xFF, 0xFF, 0xFF]).ctx (.b 0b11111010#8 5)) = some (.chkErr 0xFA) := by
  decide
theorem test_decode_trkFirst :
    decoded (decode State.reset.ctx (.t 0b11001000#8 (-1) 2 3)) = some (.trkFirst 200 (-1) 2 3) := rfl
theorem test_decode_trkSeq :
    decoded (decode (tracking (some 6) 1 0 10).ctx (.t 0b00000110#8 1 2 3)) = some (.trkSeq 6 1 2 3) := rfl
theorem test_decode_trkGap :
    decoded (decode (tracking (some 7) 1 0 10).ctx (.t 0b00001000#8 1 2 3)) = some (.trkGap 8 1 2 3) := rfl
theorem test_decode_reset : decoded (decode (ended true).ctx (.c 0b1011#4)) = some .reset := by decide
theorem test_decode_idle : decoded (decode (reading [1]).ctx (.c 0b0000#4)) = some .idle := by decide
theorem test_decode_stop : decoded (decode State.reset.ctx (.c 0b0010#4)) = some .stop := by decide
theorem test_decode_srcFail : decoded (decode State.reset.ctx (.c 0b0111#4)) = some .srcFail := by decide
theorem test_decode_hold : decoded (decode (ended false).ctx (.c 0b0111#4)) = some .hold := by decide
/-- 0001 offers a byte: no operation of its own (R36). -/
theorem test_decode_byte_offered : decoded (decode State.reset.ctx (.c 0b0001#4)) = none := by decide

/-- Rows of spec/opcode_table.json by the host's numbering (log 12): SOF's 0xAA, RESET's 0x8, SRCFAIL's 0x4, STOP's 0x2,
IDLE's 0x0, and a byte that is noise. -/
theorem test_decodeTableWord :
    decodeTableWord 8 0xAA = some (.sof 0) ∧ decodeTableWord 8 0x8 = some .reset ∧
    decodeTableWord 8 0x4 = some .srcFail ∧ decodeTableWord 8 0x2 = some .stop ∧
    decodeTableWord 8 0x0 = some .idle ∧ decodeTableWord 8 0xAB = some (.skip 0xAB) ∧
    decodeTableWord 8 0x100 = none := by decide
/-- The very next step runs the placed word: SOF at time 0 from reset. -/
theorem test_withFetchWord_runs_next :
    (next (step (State.reset.withFetchWord 8 0xAA))).map State.position = some (.readingPayload, 0) := by decide

/-! ### Pure functions (section 2.1 and S2) -/

theorem test_cksum :
    cksum [0, 0, 0, 0, 0] = 0x00 ∧ cksum [0x80, 0x80, 0, 0, 0] = 0x00 ∧ cksum [0xAA, 1, 2, 3, 4] = 0xB4 ∧
    cksum [0xAA, 0xAA, 0xAA, 0xAA, 0xAA] = 0x52 ∧ cksum [0x12, 0x34, 0x56, 0x78, 0x9A] = 0xAE ∧
    cksum [0xFE, 0xFE, 0xFF, 0xE8, 0x03] = 0xE6 := by decide
theorem test_s16 :
    (s16 0x00 0x00).toInt = 0 ∧ (s16 0x01 0x00).toInt = 1 ∧ (s16 0x00 0x01).toInt = 256 ∧
    (s16 0xFF 0x00).toInt = 255 ∧ (s16 0x00 0xFF).toInt = -256 ∧ (s16 0xAA 0xAA).toInt = -21846 ∧
    (s16 0x34 0x12).toInt = 4660 ∧ (s16 0xFF 0x80).toInt = -32513 ∧ (s16 0x00 0x7F).toInt = 32512 := by decide
theorem test_inc8 : inc8 0 = 1 ∧ inc8 127 = 128 ∧ inc8 254 = 255 ∧ inc8 255 = 0 := by decide
theorem test_gap8 :
    gap8 7 7 = 0 ∧ gap8 0 255 = 1 ∧ gap8 255 0 = 255 ∧ gap8 4 251 = 9 ∧ gap8 6 8 = 254 ∧ gap8 128 0 = 128 ∧
    gap8 0 128 = 128 := by decide
theorem test_add64 :
    add64 0 1 = 1 ∧ add64 10 255 = 265 ∧ add64 0xFFFFFFFFFFFFFFFF 1 = 0 ∧ add64 0xFFFFFFFFFFFFFFFF 255 = 254 := by
  decide
theorem test_scale :
    scale (s16 0x00 0x80) = -1024 ∧ scale (s16 0xFF 0x7F) = 1023 + 31 / 32 ∧ scale (s16 0xAA 0xAA) = -682 - 11 / 16 := by
  decide +kernel
/-- The frames of P1: (1, 0, 0), (2, -1, 32767), (4, -32768, 256). -/
theorem test_frameBytes :
    frameBytes 1 0 0 = [0xAA, 0x01, 0x00, 0x00, 0x00, 0x00, 0x01] ∧
    frameBytes 2 (-1) 32767 = [0xAA, 0x02, 0xFF, 0xFF, 0xFF, 0x7F, 0x7E] ∧
    frameBytes 4 (-32768) 256 = [0xAA, 0x04, 0x00, 0x80, 0x00, 0x01, 0x85] := by decide

/-! ### Decoder operations, one step each (section 2.2) -/

theorem test_sof_from_reset :
    decoderView (deliver (.byte 0xAA 50) State.reset) = some (.readingPayload, [], 50, []) := rfl
theorem test_sof_drops_the_last_frame :
    decoderView (deliver (.byte 0xAA 60) { State.reset with buf := [7, 2, 0, 2, 0, 0x0B], ts := 30 }) =
      some (.readingPayload, [], 60, []) := rfl
theorem test_skip_near_marker : next (deliver (.byte 0xAB 50) State.reset) = some State.reset := by decide
theorem test_skip_zero : next (deliver (.byte 0x00 50) State.reset) = some State.reset := by decide
theorem test_push_marker_is_data :
    decoderView (deliver (.byte 0xAA 51) (reading [])) = some (.readingPayload, [0xAA], 50, []) := rfl
theorem test_push_fifth_byte :
    decoderView (deliver (.byte 0xAA 51) (reading [1, 0, 0, 0])) =
      some (.readingPayload, [1, 0, 0, 0, 0xAA], 50, []) := rfl
theorem test_chkOk_signed_extremes :
    samplesView (deliver (.byte 0x7E 52) (reading [0x02, 0xFF, 0xFF, 0xFF, 0x7F])) = some [(2, -1, 32767)] := by
  decide
theorem test_chkOk_state :
    (decoderView (deliver (.byte 0x85 52) (reading [0x04, 0x00, 0x80, 0x00, 0x01]))).map
        (fun v => (v.1, v.2.1, v.2.2.1)) =
      some (.awaitingStart, [0x04, 0x00, 0x80, 0x00, 0x01, 0x85], 50) ∧
    samplesView (deliver (.byte 0x85 52) (reading [0x04, 0x00, 0x80, 0x00, 0x01])) = some [(4, -32768, 256)] ∧
    arrivalView (deliver (.byte 0x85 52) (reading [0x04, 0x00, 0x80, 0x00, 0x01])) = some [50] :=
  ⟨rfl, by decide, rfl⟩
theorem test_chkErr_diagnostic :
    decoderView (deliver (.byte 0xAA 52) (reading [1, 0, 0, 0, 0])) =
      some (.awaitingStart, [1, 0, 0, 0, 0, 0xAA], 50, [.checksumError]) := rfl
theorem test_chkErr_leaves_the_tracker :
    lossView (deliver (.byte 0xFA 52) { reading [0xFF, 0xFF, 0xFF, 0xFF, 0xFF] with
      exp := some 9, totalValid := 3, totalLost := 2, prevTs := 7 }) = some (some 9, 3, 2, 7) := rfl

/-! ### Tracker operations, one step each (section 2.3) -/

theorem test_trkFirst_any_sequence :
    lossView (exec (.trkFirst 255 0 0 40) (tracking none 0 0 0)) = some (some 0, 1, 0, 40) ∧
    timingView (exec (.trkFirst 255 0 0 40) (tracking none 0 0 0)) = some ([], [(intervalSince 40 0, true)]) := ⟨rfl, rfl⟩
theorem test_trkSeq_wraps :
    lossView (exec (.trkSeq 255 0 0 10) (tracking (some 255) 1 0 10)) = some (some 0, 2, 0, 10) ∧
    timingView (exec (.trkSeq 255 0 0 10) (tracking (some 255) 1 0 10)) = some ([], [(intervalSince 10 10, false)]) := ⟨rfl, rfl⟩
theorem test_trkSeq_interval :
    lossView (exec (.trkSeq 6 0 0 25) (tracking (some 6) 1 0 10)) = some (some 7, 2, 0, 25) ∧
    timingView (exec (.trkSeq 6 0 0 25) (tracking (some 6) 1 0 10)) = some ([], [(intervalSince 25 10, false)]) := ⟨rfl, rfl⟩
theorem test_trkGap_wraps :
    lossView (exec (.trkGap 2 0 0 30) (tracking (some 254) 9 4 10)) = some (some 3, 10, 8, 30) ∧
    timingView (exec (.trkGap 2 0 0 30) (tracking (some 254) 9 4 10)) = some ([4], [(intervalSince 30 10, false)]) := ⟨rfl, rfl⟩
/-- The intervals the tests below and above name, at every width of a timestamp (section 2.3); with the clock stepping
back it is 2^TSW - 10 (R118). -/
theorem test_intervals :
    intervalSince 40 0 = 40 ∧ intervalSince 10 10 = 0 ∧ intervalSince 25 10 = 15 ∧ intervalSince 30 10 = 20 ∧
    intervalSince 90 100 = -10 ∧ (10 : Time) + -10 = 0 := by
  have h : ∀ m k : Nat, BitVec.ofNat Config.TSW (m + k) - BitVec.ofNat Config.TSW k = BitVec.ofNat Config.TSW m :=
    fun m k => by rw [BitVec.ofNat_add, BitVec.add_sub_cancel]
  simp only [intervalSince_eq_sub]
  refine ⟨h 40 0, h 0 10, h 15 10, h 20 10, ?_, by simp⟩
  rw [← show (100 : Time) - 90 = 10 from h 10 90, BitVec.neg_sub, BitVec.sub_eq_add_neg, BitVec.add_comm]
/-- The clock steps back: the interval wraps and nothing else changes (R118). -/
theorem test_trkGap_clock_steps_back :
    lossView (exec (.trkGap 128 0 0 90) (tracking (some 0) 5 0 100)) = some (some 129, 6, 128, 90) ∧
    timingView (exec (.trkGap 128 0 0 90) (tracking (some 0) 5 0 100)) = some ([128], [(intervalSince 90 100, false)]) := ⟨rfl, rfl⟩
/-- The diagnostic comes before the sample (D18), here on a whole CHK.OK step: `[5, 6, 8]` of S4, third frame. -/
theorem test_chkOk_reports_loss_first :
    (next (deliver (.byte 0x08 31) { reading [8, 0, 0, 0, 0] with
        ts := 30, exp := some 7, totalValid := 2, prevTs := 10 })).map
        (fun t => (t.out.head?, (recordsOf t.out).map fun r => (r.interval, r.first, r.totalLost, r.totalValid))) =
      some (some (.lost 1), [(intervalSince 30 10, false, 1, 3)]) := rfl

/-! ### System operations, one step each (section 2.4) -/

theorem test_reset_from_ended_session : next (deliver .reset (ended true)) = some State.reset := by decide
theorem test_reset_before_any_session :
    next (deliver .reset { reading [1, 2] with started := false, exp := some 3, totalLost := 9 }) =
      some State.reset := by decide
theorem test_idle_keeps_a_partial_frame : next (deliver .idle (reading [1])) = some (reading [1]) := rfl
theorem test_stop_mid_frame :
    decoderView (deliver .stop { reading [7, 0x10] with totalValid := 12, totalLost := 3 }) =
      some (.awaitingStart, [7, 0x10], 50, [.summary 12 3 false]) ∧
    (next (deliver .stop (reading [7, 0x10]))).map (fun t => (t.halted, t.fatal)) = some (true, false) := ⟨rfl, rfl⟩
theorem test_srcFail_mid_frame :
    decoderView (deliver .srcFail { reading [0x0A] with totalValid := 1 }) =
      some (.awaitingStart, [0x0A], 50, [.summary 1 0 true]) ∧
    (next (deliver .srcFail (reading [0x0A]))).map (fun t => (t.halted, t.fatal)) = some (true, true) := ⟨rfl, rfl⟩
theorem test_hold_after_the_end :
    next (deliver (.byte 0xAA 9) (ended true)) = some (ended true) ∧ next (deliver .stop (ended true)) = some (ended true) ∧
    next (deliver .srcFail (ended false)) = some (ended false) ∧ next (deliver .idle (ended false)) = some (ended false) := by
  decide

/-! ### Pins (section 2.4) -/

theorem test_pins :
    pinInputs 0b1011 0xAA 5 = [.reset] ∧ pinInputs 0b0111 0xAA 5 = [.srcFail] ∧
    pinInputs 0b0011 0x01 5 = [.byte 0x01 5, .stop] ∧ pinInputs 0b0010 0x01 5 = [.stop] ∧
    pinInputs 0b0001 0x01 5 = [.byte 0x01 5] ∧ pinInputs 0b0000 0x01 5 = [.idle] := ⟨rfl, rfl, rfl, rfl, rfl, rfl⟩
/-- 0011 with the sixth byte of a valid frame: the sample is counted, then the summary shows it. -/
theorem test_cycle_byte_with_stop :
    (next (cycle { rst := false, srcErr := false, stop := true, rxValid := true, rxData := 1, now := 52 }
        (reading [1, 0, 0, 0, 0]))).map (fun t => ((recordsOf t.out).length, t.out.getLast?, t.halted)) =
      some (1, some (.summary 1 0 false), true) := by decide
/-- A strobe one cycle late: the checksum error of cycle 0 shows in cycle 1 and not in cycle 0 (R36). -/
theorem test_portsAt_latency_one :
    (match runCycles (reading [1, 0, 0, 0, 0]) [pinsOf (.byte 2 52), pinsOf .idle] with
      | .next after => [0, 1].map fun k => (portsAt 1 after k).map fun q => q.cksumErr
      | .fault _ => []
      | .refused _ => []) = [some false, some true] := by decide
/-- Stop, then reset within the latency: the late summary strobe still has its totals beside it (R35, R36). -/
theorem test_portsAt_summary_after_reset :
    (match runCycles { reading [7, 0x10] with totalValid := 12, totalLost := 3 } [pinsOf .stop, pinsOf .reset] with
      | .next after => (portsAt 1 after 1).map fun q => (q.summaryValid, q.totalValid, q.totalLost, q.halted)
      | .fault _ => none
      | .refused _ => none) = some (true, 12, 3, false) := by decide
theorem test_stream_notation :
    expand [.reset, .time 7, .byte [0xAA, 0x0A], .idle 2, .srcfail] =
      [.reset, .byte 0xAA 7, .byte 0x0A 7, .idle, .idle, .srcFail] := rfl

/-! ### Witnesses: hypotheses that some state and operands meet -/

theorem witness_TotalsWrapModulo64Bits :
    (0xFFFFFFFFFFFFFF00#64 : Total).toNat + 255 < 2 ^ 64 := by decide
theorem witness_IntervalIsDifferenceModuloWidth :
    (10 : Time).toNat ≤ (10 : Time).toNat ∧ (0 : Time).toNat < (1 : Time).toNat := by
  refine ⟨le_refl _, ?_⟩
  simp [Config.TSW]
theorem witness_ChecksumMissesReorderingAndCancellation : ([1, 2, 3, 4, 5] : List Byte).Perm [5, 4, 3, 2, 1] := by decide
/-- Both clauses of the sixth byte, at the one value that passes and its neighbour. -/
theorem witness_SixthByteDecidesValidity :
    (reading [1, 0, 0, 0, 0]).started = true ∧ (reading [1, 0, 0, 0, 0]).halted = false ∧
    (reading [1, 0, 0, 0, 0]).st = .readingPayload ∧ (reading [1, 0, 0, 0, 0]).buf = [1, 0, 0, 0, 0] ∧
    (1 : Byte) = cksum [1, 0, 0, 0, 0] ∧ (2 : Byte) ≠ cksum [1, 0, 0, 0, 0] := by decide
/-- Each clause: AwaitingStart, four buffered, five buffered; with five, a sum that is the marker value and one that is
not. -/
theorem witness_SelectionByPosition :
    (resetCtx.halted = false ∧ resetCtx.st = .awaitingStart ∧ (0xAB : Byte) ≠ 0xAA) ∧
    ((reading [1, 0, 0, 0]).ctx.halted = false ∧ (reading [1, 0, 0, 0]).ctx.st = .readingPayload ∧
      (reading [1, 0, 0, 0]).ctx.buf.length < 5) ∧
    ((reading [1, 0, 0, 0, 0]).ctx.halted = false ∧ (reading [1, 0, 0, 0, 0]).ctx.st = .readingPayload ∧
      (reading [1, 0, 0, 0, 0]).ctx.buf.length = 5 ∧ cksum ((reading [1, 0, 0, 0, 0]).ctx.buf.take 5) ≠ 0xAA ∧
      cksum ((reading [0xAA, 0, 0, 0, 0]).ctx.buf.take 5) = 0xAA) := by decide
/-- An operation of each format for which both sides hold, and a word that decodes to an operation. -/
theorem witness_DecodeOfEncodeIsTheOperation :
    (Instr.wellFormed (.skip 0xAB) = true ∧ selects resetCtx (.skip 0xAB) = true) ∧
    (Instr.wellFormed (.trkGap 8 1 2 3) = true ∧ selects (tracking (some 7) 1 0 0).ctx (.trkGap 8 1 2 3) = true) ∧
    (Instr.wellFormed .stop = true ∧ selects resetCtx .stop = true) := by decide
theorem witness_DecodedOperationMeetsItsRow :
    decoded (decode resetCtx (.b 0xAA 7)) = some (.sof 7) ∧
    (({ reading [1, 2, 3, 4, 5, 6] with halted := false } : State).ctx.halted = false ∧
      (reading [1, 2, 3, 4, 5, 6]).ctx.st = .readingPayload ∧ 6 ≤ (reading [1, 2, 3, 4, 5, 6]).ctx.buf.length) :=
  ⟨rfl, by decide⟩
/-- A begun session with a byte to come; Reset before the first session; an empty queue. -/
theorem witness_StepRunsTheDecodedOperation :
    (({ State.reset with inputs := [.byte 0xAA 5, .idle] } : State).inputs = [.byte 0xAA 5, .idle] ∧
      State.reset.started = true ∧ decoded (decodeInput State.reset.ctx (.byte 0xAA 5)) = some (.sof 5)) ∧
    decoded (decodeInput { State.reset with started := false }.ctx .reset) = some .reset ∧
    (State.reset.inputs = [] ∧ State.reset.started = true) ∧ ((ended true).inputs = [] ∧ (ended true).started = true) :=
  ⟨⟨rfl, rfl, rfl⟩, by decide⟩
theorem witness_SofStartsAFrame : State.reset.halted = false ∧ State.reset.st = .awaitingStart := by decide
theorem witness_SkipIgnoresNoise :
    State.reset.halted = false ∧ State.reset.st = .awaitingStart ∧ (0xA9 : Byte) ≠ 0xAA := by decide
theorem witness_PushAppendsOneByte :
    (reading [1, 0, 0, 0]).halted = false ∧ (reading [1, 0, 0, 0]).st = .readingPayload ∧
    (reading [1, 0, 0, 0]).buf.length ≤ 4 ∧ (reading []).buf.length ≤ 4 := by decide
theorem witness_ChkOkRunsTheTracker :
    (reading [0, 0, 0, 0, 0]).halted = false ∧ (reading [0, 0, 0, 0, 0]).st = .readingPayload ∧
    (reading [0, 0, 0, 0, 0]).buf = [0, 0, 0, 0, 0] := by decide
theorem witness_ChkErrDiscardsTheFrame :
    (reading [0, 0, 0, 0, 0]).halted = false ∧ (reading [0, 0, 0, 0, 0]).st = .readingPayload ∧
    (reading [0, 0, 0, 0, 0]).buf.length = 5 ∧ (0xAA : Byte) ≠ cksum ((reading [0, 0, 0, 0, 0]).buf.take 5) := by decide
/-- Each row of the transition table, the last two at four and five buffered bytes; and the three system operations. -/
theorem witness_DecoderHasFourTransitions :
    (State.reset.started = true ∧ State.reset.halted = false ∧ State.reset.st = .awaitingStart) ∧
    ((reading [1, 0, 0, 0]).started = true ∧ (reading [1, 0, 0, 0]).halted = false ∧
      (reading [1, 0, 0, 0]).st = .readingPayload ∧ (reading [1, 0, 0, 0]).buf.length ≤ 5) ∧
    ((reading [1, 0, 0, 0, 0]).st = .readingPayload ∧ (reading [1, 0, 0, 0, 0]).buf.length ≤ 5) ∧
    (next (exec .reset (reading [1]))).isSome = true ∧ (next (exec .stop (reading [1]))).isSome = true ∧
    (next (exec .srcFail (reading [1]))).isSome = true := by decide
/-- One state per clause: each operation answers a next state, and both cases of the last clause. -/
theorem witness_DecoderOperationsEmitAtMostOneEvent :
    (next (exec (.sof 5) State.reset)).isSome = true ∧ (next (exec (.skip 1) State.reset)).isSome = true ∧
    (next (exec (.push 1) (reading []))).isSome = true ∧ (next (exec (.chkErr 2) (reading [1, 0, 0, 0, 0]))).isSome = true ∧
    (next (exec (.chkOk 1) (reading [1, 0, 0, 0, 0]))).isSome = true ∧
    (rowFormat (.chkOk 1) = 'B' ∧
      (next (exec (.chkOk 1) { reading [1, 0, 0, 0, 0] with exp := some 9, totalLost := 4 })).isSome = true) ∧
    (reading []).st = .readingPayload ∧ (0xAB : Byte) ≠ 0xAA := by decide
theorem witness_TrkFirstAcceptsUnconditionally :
    (tracking none 0 0 0).exp = none ∧
    ((tracking (some 7) 1 0 0).exp ≠ none ∧ Instr.stop ≠ .reset ∧
      (next (exec .stop (tracking (some 7) 1 0 0))).isSome = true) := by decide
theorem witness_TrkSeqAdvances : (tracking (some 255) 1 0 10).exp = some 255 := by decide
/-- The smallest and the largest gap. -/
theorem witness_TrkGapCountsAndReports :
    ((tracking (some 7) 2 0 10).exp = some 7 ∧ (8 : Byte) ≠ 7) ∧ ((tracking (some 6) 2 0 10).exp = some 6 ∧ (5 : Byte) ≠ 6) := by
  decide
/-- Each tracker operation, and each of the three operations that never reach the tracker. -/
theorem witness_TrackerWritesOnlyLossState :
    (next (exec (.trkFirst 1 2 3 4) State.reset)).isSome = true ∧
    (next (exec (.trkSeq 6 2 3 4) (tracking (some 6) 1 0 0))).isSome = true ∧
    (next (exec (.trkGap 8 2 3 4) (tracking (some 7) 1 0 0))).isSome = true ∧
    (next (exec (.chkErr 2) (reading [1, 0, 0, 0, 0]))).isSome = true ∧
    (next (exec (.skip 2) State.reset)).isSome = true ∧ (next (exec .idle State.reset)).isSome = true := by decide
theorem witness_TrackerWritesOnlyLossState_sameLoss : sameLoss (tracking (some 7) 1 0 0) { reading [1] with
    exp := some 7, totalValid := 1 } := by unfold sameLoss; decide
theorem witness_ResetStartsASession :
    next (deliver .reset (ended true)) = some State.reset ∧ next (deliver .reset State.reset) = some State.reset := by decide
theorem witness_IdleChangesNothing :
    (reading [1]).halted = false ∧ (reading [1]).started = true ∧ ([.byte 0 6] : List Input) ≠ [] := by decide
theorem witness_StopEndsTheSession : (reading [7, 0x10]).halted = false := by decide
theorem witness_SourceFailureEndsTheSession : (reading [0x0A]).halted = false := by decide
theorem witness_HoldIsInertUntilReset :
    (ended true).halted = true ∧ (ended true).started = true ∧
    (∀ x ∈ ([.byte 0xAA 9, .stop, .srcFail, .idle] : List Input), x ≠ .reset) ∧
    ([.byte 0xAA 9, .stop, .srcFail, .idle] : List Input) ≠ [] := by decide
/-- Each of the four changes of a flag. -/
theorem witness_OnlyNamedOperationsChangeTheSessionFlags :
    (State.reset.halted = false ∧ (next (exec .stop State.reset)).map (fun t => t.halted) = some true) ∧
    ((ended true).halted = true ∧ (next (exec .reset (ended true))).map (fun t => t.halted) = some false) ∧
    (State.reset.fatal = false ∧ (next (exec .srcFail State.reset)).map (fun t => t.fatal) = some true) ∧
    ((ended true).fatal = true ∧ (next (exec .reset (ended true))).map (fun t => t.fatal) = some false) := by decide
theorem witness_NothingRunsBeforeTheFirstReset :
    ({ State.reset with started := false } : State).started = false ∧ Input.idle ≠ .reset ∧ Input.reset = .reset := by
  decide
/-- Every operation answers a next state somewhere: the hypothesis of every statement about all operations. -/
theorem witness_UnwrittenElementsAreUnchanged :
    (next (exec (.sof 5) State.reset)).isSome = true ∧ (next (exec (.skip 1) State.reset)).isSome = true ∧
    (next (exec (.push 1) (reading [1, 0, 0, 0]))).isSome = true ∧
    (next (exec (.chkOk 1) (reading [1, 0, 0, 0, 0]))).isSome = true ∧
    (next (exec (.chkErr 2) (reading [1, 0, 0, 0, 0]))).isSome = true ∧
    (next (exec (.trkFirst 1 2 3 4) State.reset)).isSome = true ∧
    (next (exec (.trkSeq 6 2 3 4) (tracking (some 6) 1 0 0))).isSome = true ∧
    (next (exec (.trkGap 8 2 3 4) (tracking (some 7) 1 0 0))).isSome = true ∧
    (next (exec .reset (ended true))).isSome = true ∧ (next (exec .idle State.reset)).isSome = true ∧
    (next (exec .stop State.reset)).isSome = true ∧ (next (exec .srcFail State.reset)).isSome = true ∧
    (next (exec .hold (ended true))).isSome = true := by decide
theorem witness_PositionMovesByTheTable :
    (next (exec (.push 1) (reading [1, 0, 0, 0]))).isSome = true ∧
    (next (exec .stop (reading [1, 0]))).isSome = true := by decide
/-- The conditions' operations, each with a next state; an operation that raises none; and CHK.OK with and without a
gap. -/
theorem witness_ConditionsAndTheirEvents :
    (next (exec (.skip 1) State.reset)).isSome = true ∧
    (next (exec (.chkErr 2) (reading [1, 0, 0, 0, 0]))).isSome = true ∧
    (next (exec (.trkGap 8 2 3 4) (tracking (some 7) 1 0 0))).isSome = true ∧
    (next (exec .srcFail State.reset)).isSome = true ∧
    (conditionOf .idle = none ∧ (next (exec .idle State.reset)).isSome = true) ∧
    ((reading [1, 0, 0, 0, 0]).buf = [1, 0, 0, 0, 0] ∧
      (next (exec (.chkOk 1) { reading [1, 0, 0, 0, 0] with exp := some 9 })).isSome = true ∧
      (next (exec (.chkOk 1) { reading [1, 0, 0, 0, 0] with exp := some 1 })).isSome = true) := by decide
theorem witness_LossStateHasOneWriter :
    (next (exec (.chkOk 1) { reading [1, 0, 0, 0, 0] with exp := some 7 })).isSome = true ∧
    (next (exec .srcFail (reading [1]))).isSome = true := by decide
/-- The invariant, in a state away from reset (mid-frame, five bytes buffered), with a step from it. -/
theorem witness_EveryStepKeepsTheInvariant :
    inv (reading [1, 0, 0, 0, 0]) ∧
    (next (step { reading [1, 0, 0, 0, 0] with inputs := [.byte 1 52] })).isSome = true := by
  exact ⟨⟨by decide, by unfold positionOk; decide, by unfold sessionOk; decide⟩, by decide⟩
/-- The legal position with an ended session that dropped a partial frame. -/
theorem witness_ReachablePositionsAreEight :
    inv (reading [1]) ∧ (reading [1]).halted = false ∧ inv dropped := by
  exact ⟨⟨by decide, by unfold positionOk; decide, by unfold sessionOk; decide⟩, by decide,
    ⟨by decide, by unfold positionOk; decide, by unfold sessionOk; decide⟩⟩
theorem witness_NoStepStopsInABegunSession : inv (ended true) ∧ inv (reading [1, 0, 0, 0]) := by
  exact ⟨⟨by decide, by unfold positionOk; decide, by unfold sessionOk; decide⟩,
    ⟨by decide, by unfold positionOk; decide, by unfold sessionOk; decide⟩⟩
theorem witness_OutputListsOfAStep :
    (next (step { reading [8, 0, 0, 0, 0] with exp := some 7, inputs := [.byte 8 52] })).map (fun t => t.out.length) =
      some 2 := by decide
theorem witness_TrackerNeverInfluencesTheDecoder :
    sameClassification (reading [1, 0, 0, 0, 0]) { reading [1, 0, 0, 0, 0] with
      exp := some 9, totalLost := 4, prevTs := 3, ts := 2 } ∧
    sameButTime (.byte 1 5) (.byte 1 6) = true ∧ (next (deliver (.byte 1 5) (reading [1, 0, 0, 0, 0]))).isSome = true := by
  unfold sameClassification; decide
/-- A window that passes and one that fails, with an idle report inside. -/
theorem witness_ExactlyOneOutcomePerMarker :
    (reading []).started = true ∧ (reading []).halted = false ∧ (reading []).st = .readingPayload ∧ (reading []).buf = [] ∧
    (∀ x ∈ ([.byte 1 6, .byte 0 6, .idle, .byte 0 7, .byte 0 8, .byte 0 8, .byte 1 9] : List Input), isStream x = true) ∧
    (bytesOf [.byte 1 6, .byte 0 6, .idle, .byte 0 7, .byte 0 8, .byte 0 8, .byte 1 9]).length = 6 ∧
    validPayload [1, 0, 0, 0, 0, 1] = true ∧ validPayload [1, 0, 0, 0, 0, 2] = false := by decide
theorem witness_FrameIsDeliveredUnchanged :
    State.reset.started = true ∧ State.reset.halted = false ∧ State.reset.st = .awaitingStart := by decide
theorem witness_BadFrameNeverValidates :
    State.reset.started = true ∧ State.reset.halted = false ∧ State.reset.st = .awaitingStart ∧
    directiveOk (.badframe 1 0 0 1) = true ∧ directiveOk (.badframe 1 0 0 255) = true := by decide
/-- Corrupted in its counter byte and in its checksum byte, with something expected and with nothing. -/
theorem witness_CorruptedFrameCountsAsLostOneFrameLater :
    (tracking (some 255) 1 0 10).started = true ∧ (tracking (some 255) 1 0 10).halted = false ∧
    (tracking (some 255) 1 0 10).st = .awaitingStart ∧ (tracking (some 255) 1 0 10).exp = some 255 ∧
    (tracking none 0 0 0).exp = none ∧ (0xFF : Byte) ≠ cksum [0xFE, 0, 0, 0, 0] ∧
    (0 : Byte) ≠ cksum [0xFF, 0, 0, 0, 0] := by decide
theorem witness_FalseMarkerCostsTheFrame :
    State.reset.started = true ∧ State.reset.halted = false ∧ State.reset.st = .awaitingStart ∧
    highByte 0 ≠ cksum [0xAA, 1, lowByte 0, highByte 0, lowByte 0] ∧ cksum (frameBody 1 0 0) ≠ 0xAA := by decide
theorem witness_AllMarkerStreamFailsEverySeventhByte :
    State.reset.started = true ∧ State.reset.halted = false ∧ State.reset.st = .awaitingStart := by decide
/-- A run without Reset that reports a gap and a sample. -/
theorem witness_TotalsCountTheEvents :
    (∀ x ∈ ([.byte 8 52] : List Input), x ≠ .reset) ∧
    (∃ t outs, runInputs { reading [8, 0, 0, 0, 0] with exp := some 7 } [.byte 8 52] = .next (t, outs) ∧
      (gapsOf outs).length = 1 ∧ (recordsOf outs).length = 1) := by
  exact ⟨by decide, _, _, rfl, by decide, by decide⟩
/-- A run that ends a session, from a running and from an ended one. -/
theorem witness_AtMostOneSummaryPerSession :
    (∀ x ∈ ([.stop, .stop] : List Input), x ≠ .reset) ∧ State.reset.halted = false ∧ (ended true).halted = true ∧
    (∃ t outs, runInputs State.reset [.stop, .stop] = .next (t, outs)) ∧
    (∃ t outs, runInputs (ended true) [.stop, .stop] = .next (t, outs)) := by
  exact ⟨by decide, by decide, by decide, ⟨_, _, rfl⟩, ⟨_, _, rfl⟩⟩
theorem witness_StepsConsumeTheQueueAsTheFold :
    ∃ t outs, runInputs { State.reset with inputs := [] } [.byte 0xAA 5, .idle] = .next (t, outs) := ⟨_, _, rfl⟩
/-- Both clauses: `stop` beside a byte, and `src_err` beside a byte. -/
theorem witness_CoincidingByteIsCountedBeforeStop :
    (reading [1, 0, 0, 0, 0]).halted = false ∧
    (next (deliver (.byte 1 52) (reading [1, 0, 0, 0, 0]))).isSome = true ∧
    pinInputs 0b0011 1 52 = [.byte 1 52, .stop] ∧ pinInputs 0b0101 1 52 = [.srcFail] :=
  ⟨rfl, rfl, rfl, rfl⟩
/-- A step with a loss and a sample, one with a summary, one with a checksum error; a run of two cycles. -/
theorem witness_PortsAfterAStep :
    (next (step { reading [8, 0, 0, 0, 0] with exp := some 7, inputs := [.byte 8 52] })).map
      (fun t => ((ports t).lostN, (ports t).sampleValid)) = some (some 1, true) ∧
    (next (step { State.reset with inputs := [.stop] })).map (fun t => (ports t).summaryValid) = some true ∧
    (next (step { reading [1, 0, 0, 0, 0] with inputs := [.byte 2 52] })).map (fun t => (ports t).cksumErr) = some true := by
  decide
/-- Two cycles: cycle 0 is before a latency of one, cycle 1 shows cycle 0, which holds a summary. -/
theorem witness_PortsAfterAStep_run :
    ∃ t u, runCycles State.reset [pinsOf .stop, pinsOf .reset] = .next [t, u] ∧ [t, u][0 + 1]? = some u ∧
      [t, u][0]? = some t ∧ .summary 0 0 false ∈ t.out := ⟨_, _, rfl, rfl, rfl, List.mem_singleton.2 rfl⟩
theorem witness_ScaleIsExactAndInvertible : scale (-32768) = scale (BitVec.ofNat 16 0x8000) := by decide +kernel
/-- Three bytes held and a count of five; an invalid expectation over two values. -/
theorem witness_RegisterFormsRefineTheState :
    (({ regs := Vector.replicate 6 0, cnt := 5 } : RegBuf).cnt.val < 6) ∧
    regExpOption { expValid := false, expVal := 1 } = regExpOption { expValid := false, expVal := 2 } ∧
    ([1, 2, 3, 4, 5, 6] : List Byte).length ≤ 6 := by decide

end Sys2Proof.Tests
end

section
/-! The pure functions of 00_scope.md section 6: the checksum, the signed reconstruction, the successor of a sequence
number and the gap, each first as the integer it stands for, and the four obligations about them. -/

namespace Sys2Proof.Machine

/-! ### The checksum (R10) -/

/-- The checksum of any list of bytes, as an integer. -/
theorem toNat_cksum (p : List Byte) : (cksum p).toNat = (p.map BitVec.toNat).sum % 256 := by
  rw [cksum, BitVec.toNat_ofNat]

/-- A sum of bytes is at most 255 for each: five bytes give the bound 1275 of R10. -/
theorem sum_toNat_le (p : List Byte) : (p.map BitVec.toNat).sum ≤ 255 * p.length := by
  induction p with
  | nil => simp
  | cons b bs ih =>
    have hb := b.isLt
    simp only [List.map_cons, List.sum_cons, List.length_cons]
    omega

/-- The sum of five bytes written out. -/
theorem sum_toNat_five (a b c d e : Byte) :
    ([a, b, c, d, e].map BitVec.toNat).sum = a.toNat + b.toNat + c.toNat + d.toNat + e.toNat := by
  simp [Nat.add_assoc]

/-- The five bytes after the marker are the body of the frame (R53). -/
theorem take_drop_frameBytes (q : Byte) (a c : Sample) :
    ((frameBytes q a c).drop 1).take 5 = frameBody q a c := rfl

/-- A frame ends with the checksum of its body, the marker left out (R10, R53). -/
theorem getLast?_frameBytes (q : Byte) (a c : Sample) :
    (frameBytes q a c).getLast? = some (cksum (frameBody q a c)) := rfl

/-- Settles O1: the general sum modulo 256 and its bound, read at five bytes. -/
theorem checksumIsSumModulo256 : Obligations.ChecksumIsSumModulo256 := by
  unfold Obligations.ChecksumIsSumModulo256
  refine ⟨fun a b c d e => ⟨?_, ?_⟩, fun q a c => ?_, by decide, by decide⟩
  · rw [toNat_cksum, sum_toNat_five]
  · exact sum_toNat_five a b c d e ▸ sum_toNat_le [a, b, c, d, e]
  · rw [getLast?_frameBytes, take_drop_frameBytes]

/-! ### The signed reconstruction (R11) -/

/-- The concatenation of two bytes, high byte first, as an unsigned integer. -/
theorem toNat_append_byte (hi lo : Byte) : (hi ++ lo).toNat = hi.toNat * 256 + lo.toNat := by
  rw [BitVec.toNat_append, ← Nat.shiftLeft_add_eq_or_of_lt lo.isLt, Nat.shiftLeft_eq]

/-- S16 is the two's-complement reading of the high byte followed by the low byte. -/
theorem s16_eq_append (lo hi : Byte) : s16 lo hi = hi ++ lo := by
  apply BitVec.eq_of_toInt_eq
  rw [toInt_s16, BitVec.toInt_eq_toNat_cond, toNat_append_byte]
  simp only [s16Value]
  split <;> split <;> omega

/-- Settles O2: the value and its range from the laws of `s16Value`, the concatenation by `s16_eq_append`. -/
theorem signedReconstructionOfAChannel : Obligations.SignedReconstructionOfAChannel := by
  unfold Obligations.SignedReconstructionOfAChannel
  refine ⟨fun lo hi => ⟨toInt_s16 lo hi, ?_, ?_, s16_eq_append lo hi⟩, by decide, by decide, by decide⟩
  · exact toInt_s16 lo hi ▸ (s16Value_range lo hi).1
  · exact toInt_s16 lo hi ▸ (s16Value_range lo hi).2

/-! ### The successor of a sequence number (R12) -/

/-- INC8 as an integer. -/
theorem toNat_inc8 (s : Byte) : (inc8 s).toNat = (s.toNat + 1) % 256 := by
  rw [inc8, BitVec.toNat_ofNat]

/-- Settles O3: the successor as an integer, and the wrap at 255. -/
theorem sequenceSuccessorWraps : Obligations.SequenceSuccessorWraps := by
  unfold Obligations.SequenceSuccessorWraps
  exact ⟨toNat_inc8, by decide⟩

/-! ### The gap (R13) -/

/-- GAP8 as an integer: the difference modulo 256, which is non-negative. -/
theorem toNat_gap8 (s e : Byte) : ((gap8 s e).toNat : Int) = ((s.toNat : Int) - e.toNat) % 256 := by
  rw [gap8, BitVec.toNat_ofInt]
  omega

/-- The gap is zero exactly when the number received is the number expected. -/
theorem gap8_eq_zero_iff (s e : Byte) : gap8 s e = 0 ↔ s = e := by
  rw [gap8_eq_sub]
  exact sub_eq_zero

/-- Settles O4: the gap as an integer, zero exactly for equal numbers, and the three examples evaluated. -/
theorem gapIsWrapAroundDistance : Obligations.GapIsWrapAroundDistance := by
  unfold Obligations.GapIsWrapAroundDistance
  exact ⟨fun s e => ⟨toNat_gap8 s e, gap8_eq_zero_iff s e⟩, by decide, by decide, by decide⟩

end Sys2Proof.Machine
end

section
/-! No feedback from the tracker (20_memory.md R49). Two states that the classification cannot tell apart select the
same operation for a byte, whatever its time; performed in both, the operation leaves two such states again, with the
same number of checksum errors and of records reported. The tracker runs inside CHK.OK only, and whichever of its three
operations the expected counter selects, it answers, touches nothing the classification reads and reports one record. -/

namespace Sys2Proof.Machine

/-! ### The selection reads `halted`, `st` and `buf`, and no time -/

/-- The operation with the time it samples replaced; SOF alone samples one (R62). -/
def retimed (now : Time) : Instr → Instr
  | .sof _ => .sof now
  | i => i

/-- An input selects by `halted`, `st` and `buf`; the expected counter is not read. -/
theorem decodeInput_congr {c d : Ctx} (hh : d.halted = c.halted) (hs : d.st = c.st) (hb : d.buf = c.buf)
    (x : Input) : decodeInput d x = decodeInput c x := by
  cases x <;> simp only [decodeInput, decodeByte, hh, hs, hb]

/-- The time of a byte reaches the selected operation as the time SOF samples, and decides nothing. -/
theorem decodeInput_byte_retimed (c : Ctx) (b : Byte) (now now' : Time) :
    decodeInput c (.byte b now') = (decodeInput c (.byte b now)).map (retimed now') := by
  simp only [decodeInput, decodeByte]
  split
  · rfl
  · cases c.st
    · dsimp only
      split <;> rfl
    · dsimp only
      split_ifs <;> rfl

/-- Inputs alike but for the time of a byte select the same operation but for the time it samples. -/
theorem decodeInput_of_sameButTime {c : Ctx} {x y : Input} {i : Instr} (hxy : sameButTime x y = true)
    (hi : decodeInput c x = .ok i) : ∃ now, decodeInput c y = .ok (retimed now i) := by
  cases x <;> cases y <;> simp only [sameButTime, beq_iff_eq, Bool.false_eq_true] at hxy
  case byte.byte b now b' now' =>
    subst hxy
    exact ⟨now', by rw [decodeInput_byte_retimed c b now now', hi]; rfl⟩
  case reset.reset =>
    cases hi
    exact ⟨0, rfl⟩
  all_goals
    simp only [decodeInput] at hi ⊢
    split_ifs at hi ⊢ <;> cases hi <;> exact ⟨0, rfl⟩

/-- Only a Reset is alike to a Reset. -/
theorem eq_reset_of_sameButTime {y : Input} (h : sameButTime .reset y = true) : y = .reset := by
  cases y <;> simp [sameButTime] at h ⊢

/-- The row of an operation outside the tracker reads `halted`, `st` and `buf` only, and no time. -/
theorem selects_retimed {c d : Ctx} (hh : d.halted = c.halted) (hs : d.st = c.st) (hb : d.buf = c.buf)
    {i : Instr} (hi : rowFormat i ≠ 'T') (now : Time) : selects d (retimed now i) = selects c i := by
  cases i
  case trkFirst | trkSeq | trkGap => exact absurd rfl hi
  all_goals simp only [retimed, selects, hh, hs, hb]

/-! ### States the classification cannot tell apart -/

/-- Alike in what the classification reads, and in how many checksum errors and records the step has reported. -/
def classifiedAlike (s u : State) : Prop :=
  sameClassification s u ∧ checksumErrorCount u.out = checksumErrorCount s.out ∧
    (recordsOf u.out).length = (recordsOf s.out).length

/-- A step begins with no outputs, so what an earlier step reported plays no part. -/
theorem classifiedAlike_clearOut {s u : State} (h : sameClassification s u) :
    classifiedAlike s.clearOut u.clearOut := ⟨h, rfl, rfl⟩

theorem classifiedAlike_acceptMarker {s u : State} (h : classifiedAlike s u) (now now' : Time) :
    classifiedAlike (s.acceptMarker now) (u.acceptMarker now') := by
  obtain ⟨⟨-, -, hh, hst⟩, hout⟩ := h
  exact ⟨⟨rfl, rfl, hh, hst⟩, hout⟩

theorem classifiedAlike_append {s u : State} (h : classifiedAlike s u) (b : Byte) :
    classifiedAlike (s.append b) (u.append b) := by
  obtain ⟨⟨hs, hb, hh, hst⟩, hout⟩ := h
  exact ⟨⟨hs, congrArg (· ++ [b]) hb, hh, hst⟩, hout⟩

theorem classifiedAlike_goto {s u : State} (h : classifiedAlike s u) (target : SyncState) :
    classifiedAlike (s.goto target) (u.goto target) := by
  obtain ⟨⟨-, hb, hh, hst⟩, hout⟩ := h
  exact ⟨⟨rfl, hb, hh, hst⟩, hout⟩

theorem classifiedAlike_emit_checksumError {s u : State} (h : classifiedAlike s u) :
    classifiedAlike (s.emit .checksumError) (u.emit .checksumError) := by
  obtain ⟨hc, he, hr⟩ := h
  exact ⟨hc, by simp [checksumErrorCount_append, he], by simp [recordsOf_append, hr]⟩

theorem classifiedAlike_startSession {s u : State} (h : classifiedAlike s u) :
    classifiedAlike s.startSession u.startSession := by
  obtain ⟨-, hout⟩ := h
  exact ⟨⟨rfl, rfl, rfl, rfl⟩, hout⟩

/-- The totals a summary carries may differ; a summary is neither a record nor a checksum error. -/
theorem classifiedAlike_endSession {s u : State} (h : classifiedAlike s u) (failed : Bool) :
    classifiedAlike (s.endSession failed) (u.endSession failed) := by
  obtain ⟨⟨-, hb, -, hst⟩, he, hr⟩ := h
  exact ⟨⟨rfl, hb, rfl, hst⟩, by simp [checksumErrorCount_append, checksumErrorCount, he],
    by simp [recordsOf_append, recordsOf, hr]⟩

/-! ### The tracker sub-step -/

/-- Whatever the tracker expects, it answers, leaves what the classification reads, and reports one record and no
checksum error. -/
theorem trackSample_reports_one_record (o : FrameOperands) (a : Time) (s : State) :
    ∃ t, trackSample o a s = .next t ∧ sameClassification s t ∧
      checksumErrorCount t.out = checksumErrorCount s.out ∧
      (recordsOf t.out).length = (recordsOf s.out).length + 1 := by
  refine ⟨_, trackSample_eq o a s, ?_⟩
  cases s.exp with
  | none => simp [sameClassification, checksumErrorCount_append, checksumErrorCount, recordsOf_append, recordsOf]
  | some e =>
    by_cases hq : o.sequence = e <;>
      simp [hq, sameClassification, checksumErrorCount_append, checksumErrorCount, recordsOf_append, recordsOf]

/-- The tracker's three elements, its arrival time and the operation it selects do not show. -/
theorem trackSample_classifiedAlike {s u t : State} {o : FrameOperands} {a : Time} (h : classifiedAlike s u)
    (ht : trackSample o a s = .next t) (a' : Time) :
    ∃ v, trackSample o a' u = .next v ∧ classifiedAlike t v := by
  obtain ⟨t', ht', ⟨hs, hb, hh, hst⟩, he, hr⟩ := trackSample_reports_one_record o a s
  obtain ⟨v, hv, ⟨hs', hb', hh', hst'⟩, he', hr'⟩ := trackSample_reports_one_record o a' u
  obtain ⟨⟨hsu, hbu, hhu, hstu⟩, heu, hru⟩ := h
  obtain rfl : t' = t := by simpa [ht'] using ht
  refine ⟨v, hv, ⟨?_, ?_, ?_, ?_⟩, ?_, ?_⟩ <;> simp only [*]

/-! ### Every operation an input selects -/

/-- A guarded operation: the same selection and indistinguishable answers. -/
theorem whenSelected_classifiedAlike {i j : Instr} {s u s' u' t : State}
    (hsel : selects u.ctx j = selects s.ctx i) (h : classifiedAlike s' u') (ht : whenSelected i s s' = .next t) :
    ∃ v, whenSelected j u u' = .next v ∧ classifiedAlike t v := by
  obtain ⟨hs, rfl⟩ := (whenSelected_next_iff i s s' t).1 ht
  exact ⟨u', whenSelected_of_selects u' (hsel.trans hs), h⟩

/-- CHK.OK: the same five bytes pass in both states; the tracker sub-step does not show. -/
theorem execChkOk_classifiedAlike {b : Byte} {s u t : State} (h : classifiedAlike s u)
    (ht : execChkOk b s = .next t) : ∃ v, execChkOk b u = .next v ∧ classifiedAlike t v := by
  obtain ⟨c, l1, h1, l2, h2, hh, hs, hb, hk, ht⟩ := execChkOk_next_cases ht
  have ⟨⟨hsu, hbu, hhu, _⟩, _⟩ := h
  rw [execChkOk_eq (hhu.trans hh) (hsu.trans hs) (hbu.trans hb) hk]
  exact trackSample_classifiedAlike (classifiedAlike_goto (classifiedAlike_append h b) _) ht u.ts

/-- An operation outside the tracker, performed in two states the classification cannot tell apart, at any two times,
leaves two such states. -/
theorem exec_classifiedAlike {i : Instr} {s u t : State} (h : classifiedAlike s u) (hi : rowFormat i ≠ 'T')
    (ht : exec i s = .next t) (now : Time) :
    ∃ v, exec (retimed now i) u = .next v ∧ classifiedAlike t v := by
  have ⟨⟨hs, hb, hh, _⟩, _⟩ := h
  have hsel : selects u.ctx (retimed now i) = selects s.ctx i := selects_retimed hh hs hb hi now
  cases i with
  | sof now' => exact whenSelected_classifiedAlike hsel (classifiedAlike_acceptMarker h now' now) ht
  | push b => exact whenSelected_classifiedAlike hsel (classifiedAlike_append h b) ht
  | chkOk b => exact execChkOk_classifiedAlike h ht
  | chkErr b =>
    have happ := classifiedAlike_goto (classifiedAlike_append h b) .awaitingStart
    exact whenSelected_classifiedAlike hsel (classifiedAlike_emit_checksumError happ) ht
  | trkFirst | trkSeq | trkGap => exact absurd rfl hi
  | reset => exact whenSelected_classifiedAlike hsel (classifiedAlike_startSession h) ht
  | stop => exact whenSelected_classifiedAlike hsel (classifiedAlike_endSession h false) ht
  | srcFail => exact whenSelected_classifiedAlike hsel (classifiedAlike_endSession h true) ht
  | skip | idle | hold => exact whenSelected_classifiedAlike hsel h ht

/-- One step of R15, delivered to two states the classification cannot tell apart. -/
theorem deliver_classifiedAlike {s u t : State} {x y : Input} (h : sameClassification s u)
    (hxy : sameButTime x y = true) (ht : deliver x s = .next t) :
    ∃ v, deliver y u = .next v ∧ classifiedAlike t v := by
  obtain ⟨i, hst, hi, ht⟩ := deliver_next_cases ht
  have ⟨hs, hb, hh, hstu⟩ := h
  obtain ⟨now, hj⟩ := decodeInput_of_sameButTime hxy hi
  rw [← decodeInput_congr (c := s.ctx) (d := u.ctx) hh hs hb y] at hj
  have hst' : u.started = true ∨ y = .reset :=
    hst.imp hstu.trans fun (hx : x = .reset) => eq_reset_of_sameButTime (hx ▸ hxy)
  rw [deliver_eq_exec hst' hj]
  exact exec_classifiedAlike (classifiedAlike_clearOut h) (decodeInput_not_tracker hi) ht now

/-- Settles O44: the selection by `decodeInput_congr`, the step by `deliver_classifiedAlike`. -/
theorem trackerNeverInfluencesTheDecoder : Obligations.TrackerNeverInfluencesTheDecoder := by
  unfold Obligations.TrackerNeverInfluencesTheDecoder
  intro s u h
  have ⟨hs, hb, hh, _⟩ := h
  exact ⟨fun b now => (decodeInput_congr hh hs hb (.byte b now)).symm,
    fun t x y hxy ht => deliver_classifiedAlike h hxy ht⟩

end Sys2Proof.Machine
end

section
/-! Frame validity and the selection of a byte (30_encoding.md R51, R52, R56). Once a session runs, a byte selects by
the position in the frame: one equation per position, and with five bytes buffered an `if` on their checksum. A step on
the sixth byte performs that selection; the record a valid frame reports is what the tracker emits from its operands. -/

namespace Sys2Proof.Machine

/-! ### The operation a byte selects, by position (R55 rows 6 to 10) -/

/-- With no frame begun the marker starts one. -/
theorem decodeInput_marker {c : Ctx} (hh : c.halted = false) (hs : c.st = .awaitingStart) (now : Time) :
    decodeInput c (.byte Config.marker now) = .ok (.sof now) := by
  simp [decodeInput, decodeByte, hh, hs]

/-- With no frame begun any other byte is skipped. -/
theorem decodeInput_of_ne_marker {c : Ctx} (hh : c.halted = false) (hs : c.st = .awaitingStart) {b : Byte}
    (hb : b ≠ Config.marker) (now : Time) : decodeInput c (.byte b now) = .ok (.skip b) := by
  simp [decodeInput, decodeByte, hh, hs, hb]

/-- The first five bytes of a payload are stored, whatever their values. -/
theorem decodeInput_first_five {c : Ctx} (hh : c.halted = false) (hs : c.st = .readingPayload)
    (hl : c.buf.length < 5) (b : Byte) (now : Time) : decodeInput c (.byte b now) = .ok (.push b) := by
  have hle : c.buf.length ≤ 4 := by omega
  simp [decodeInput, decodeByte, hh, hs, hle]

/-- The sixth byte is compared with the sum of the five, and with nothing else. -/
theorem decodeInput_sixth {c : Ctx} (hh : c.halted = false) (hs : c.st = .readingPayload)
    (hl : c.buf.length = 5) (b : Byte) (now : Time) :
    decodeInput c (.byte b now) = if b = bufSum c.buf then .ok (.chkOk b) else .ok (.chkErr b) := by
  simp [decodeInput, decodeByte, hh, hs, hl]

/-- Of the 256 values of the sixth byte only the sum selects CHK.OK. -/
theorem decodeInput_eq_chkOk_iff {c : Ctx} (hh : c.halted = false) (hs : c.st = .readingPayload)
    (hl : c.buf.length = 5) (b : Byte) (now : Time) :
    decodeInput c (.byte b now) = .ok (.chkOk b) ↔ b = bufSum c.buf := by
  rw [decodeInput_sixth hh hs hl]
  split <;> simp [*]

/-- The 255 other values of the sixth byte select CHK.ERR. -/
theorem decodeInput_eq_chkErr_iff {c : Ctx} (hh : c.halted = false) (hs : c.st = .readingPayload)
    (hl : c.buf.length = 5) (b : Byte) (now : Time) :
    decodeInput c (.byte b now) = .ok (.chkErr b) ↔ b ≠ bufSum c.buf := by
  rw [decodeInput_sixth hh hs hl]
  split <;> simp [*]

/-- With five bytes buffered the sum runs over the whole buffer. -/
theorem toNat_bufSum_of_length_five {buf : List Byte} (hl : buf.length = 5) :
    (bufSum buf).toNat = (buf.map BitVec.toNat).sum % 256 := by
  have htake : buf.take Config.sumLen = buf := List.take_of_length_le hl.le
  rw [bufSum, toNat_cksum, htake]

/-- Settles O12: the equation of each position; the marker as a sixth byte is one value of `decodeInput_sixth`. -/
theorem selectionByPosition : Obligations.SelectionByPosition := by
  unfold Obligations.SelectionByPosition
  intro c now hh
  refine ⟨fun hs => ⟨decodeInput_marker hh hs now, fun b hb => decodeInput_of_ne_marker hh hs hb now⟩,
    fun hs hl b => decodeInput_first_five hh hs hl b now, fun hs hl => ⟨fun b => ?_, fun b => ?_, ?_, ?_⟩⟩
  · exact decodeInput_eq_chkOk_iff hh hs hl b now
  · exact decodeInput_eq_chkErr_iff hh hs hl b now
  · exact toNat_bufSum_of_length_five hl
  · rw [decodeInput_sixth hh hs hl]
    exact if_congr eq_comm rfl rfl

/-! ### The step on the sixth byte (R51) -/

/-- Of five buffered bytes the sum leaves out none. -/
theorem bufSum_five (c l1 h1 l2 h2 : Byte) : bufSum [c, l1, h1, l2, h2] = cksum [c, l1, h1, l2, h2] := rfl

/-- A payload is valid when its sixth byte is the sum of the five before it. -/
theorem validPayload_six_iff (c l1 h1 l2 h2 b : Byte) :
    validPayload [c, l1, h1, l2, h2, b] = true ↔ b = cksum [c, l1, h1, l2, h2] := by
  simp [validPayload, bufSum, Config.payloadLen, Config.sumLen]

/-- The tracker adds one record, with the operands and the arrival time it was given. -/
theorem trackSample_recordsOf {o : FrameOperands} {a : Time} {s t : State} (h : trackSample o a s = .next t) :
    ∃ r, recordsOf t.out = recordsOf s.out ++ [r] ∧
      r.sequence = o.sequence ∧ r.ch1 = o.ch1 ∧ r.ch2 = o.ch2 ∧ r.arrivalTime = a := by
  rw [trackSample_eq] at h
  cases h
  cases s.exp with
  | none => simp [recordsOf_append, recordsOf, State.sampleRecord]
  | some e =>
    by_cases hq : o.sequence = e <;> simp [hq, recordsOf_append, recordsOf, State.sampleRecord]

/-- A sixth byte equal to the sum: the tracker runs on the assembled operands with the latched time. -/
theorem deliver_valid_sixth {s : State} {c l1 h1 l2 h2 b : Byte} (now : Time) (hst : s.started = true)
    (hh : s.halted = false) (hs : s.st = .readingPayload) (hb : s.buf = [c, l1, h1, l2, h2])
    (hk : b = cksum [c, l1, h1, l2, h2]) :
    deliver (.byte b now) s =
      trackSample { sequence := c, ch1 := s16 l1 h1, ch2 := s16 l2 h2 } s.ts
        ((s.clearOut.append b).goto .awaitingStart) := by
  have hl : s.ctx.buf.length = 5 := by simp [hb]
  have hsum : b = bufSum s.ctx.buf := by rw [ctx_buf, hb, bufSum_five, hk]
  have hsel := (decodeInput_eq_chkOk_iff (c := s.ctx) hh hs hl b now).2 hsum
  rw [deliver_eq_exec (.inl hst) hsel]
  exact execChkOk_eq (s := s.clearOut) hh hs hb hk

/-- A sixth byte different from the sum: the frame is stored, reported and dropped, and the tracker does not run. -/
theorem deliver_invalid_sixth {s : State} {b : Byte} (now : Time) (hst : s.started = true)
    (hh : s.halted = false) (hs : s.st = .readingPayload) (hl : s.buf.length = 5) (hk : b ≠ bufSum s.buf) :
    deliver (.byte b now) s = .next (((s.clearOut.append b).goto .awaitingStart).emit .checksumError) := by
  have hsel := (decodeInput_eq_chkErr_iff (c := s.ctx) hh hs hl b now).2 hk
  rw [deliver_eq_exec (.inl hst) hsel]
  exact whenSelected_of_selects (s := s.clearOut) _ (decodeInput_selects hsel)

/-- Settles O11: the step on a valid and on an invalid sixth byte, the outputs of the step before being gone. -/
theorem sixthByteDecidesValidity : Obligations.SixthByteDecidesValidity := by
  unfold Obligations.SixthByteDecidesValidity
  intro s c l1 h1 l2 h2 b now hst hh hs hb
  refine ⟨validPayload_six_iff c l1 h1 l2 h2 b, fun hk => ?_, fun hk => ?_⟩
  · obtain ⟨t, ht, -, herr, -⟩ := trackSample_reports_one_record
      { sequence := c, ch1 := s16 l1 h1, ch2 := s16 l2 h2 } s.ts ((s.clearOut.append b).goto .awaitingStart)
    obtain ⟨r, hr, hrec⟩ := trackSample_recordsOf ht
    exact ⟨t, r, (deliver_valid_sixth now hst hh hs hb hk).trans ht, hr, herr, hrec⟩
  · have hsum : b ≠ bufSum s.buf := by rwa [hb, bufSum_five]
    have hl : s.buf.length = 5 := by rw [hb]; rfl
    exact ⟨_, deliver_invalid_sixth now hst hh hs hl hsum, rfl, ⟨rfl, rfl, rfl, rfl⟩⟩

/-! ### The operands (R52) -/

/-- The sign bit of a channel is bit 7 of its high byte. -/
theorem msb_s16 (lo hi : Byte) : (s16 lo hi).msb = hi.getLsbD 7 := by
  rw [s16_eq_append, BitVec.msb_append]
  exact BitVec.msb_eq_getLsbD_last hi

/-- Settles O10: the assembly drops the checksum byte; each channel is its high byte followed by its low byte. -/
theorem operandsOfAPayload : Obligations.OperandsOfAPayload := by
  unfold Obligations.OperandsOfAPayload
  intro c l1 h1 l2 h2 k k'
  have happ (lo hi : Byte) : (s16 lo hi).toInt = (hi ++ lo : BitVec 16).toInt :=
    congrArg BitVec.toInt (s16_eq_append lo hi)
  exact ⟨{ sequence := c, ch1 := s16 l1 h1, ch2 := s16 l2 h2 }, rfl, rfl, happ l1 h1, msb_s16 l1 h1,
    happ l2 h2, msb_s16 l2 h2, rfl⟩

end Sys2Proof.Machine
end

section
/-! The decoder operations (40_decoder_ops.md). Each is selected by the position in the frame and by the byte, and
leaves one named state; CHK.OK leaves what the tracker leaves on the appended buffer, and of that the decoder's own
elements, the session and the reports are the same whichever tracker operation runs. -/

namespace Sys2Proof.Machine

/-! ### Where SOF, SKIP and PUSH are selected (R62 to R64) -/

/-- Every way a byte selects an operation. -/
theorem decodeInput_byte_cases {c : Ctx} {b : Byte} {now : Time} {i : Instr}
    (h : decodeInput c (.byte b now) = .ok i) :
    (c.halted = true ∧ i = .hold) ∨
    (c.halted = false ∧
      ((c.st = .awaitingStart ∧ b = Config.marker ∧ i = .sof now) ∨
       (c.st = .awaitingStart ∧ b ≠ Config.marker ∧ i = .skip b) ∨
       (c.st = .readingPayload ∧ c.buf.length ≤ 4 ∧ i = .push b) ∨
       (c.st = .readingPayload ∧ c.buf.length = 5 ∧ b = bufSum c.buf ∧ i = .chkOk b) ∨
       (c.st = .readingPayload ∧ c.buf.length = 5 ∧ b ≠ bufSum c.buf ∧ i = .chkErr b))) := by
  rcases decodeInput_cases h with ⟨hx, -⟩ | ⟨hh, -, rfl⟩ | ⟨-, hx, -⟩ | ⟨-, hx, -⟩ | ⟨-, hx, -⟩ |
    ⟨b', now', hh, hx, hrows⟩
  case inr.inl => exact .inl ⟨hh, rfl⟩
  case inr.inr.inr.inr.inr =>
    cases hx
    exact .inr ⟨hh, hrows⟩
  all_goals cases hx

/-- SOF's row: a running session, no frame begun, the marker. -/
theorem decodeInput_eq_sof_iff (c : Ctx) (b : Byte) (now : Time) :
    decodeInput c (.byte b now) = .ok (.sof now) ↔
      c.halted = false ∧ c.st = .awaitingStart ∧ b = Config.marker := by
  refine ⟨fun h => ?_, fun ⟨hh, hs, hb⟩ => hb ▸ decodeInput_marker hh hs now⟩
  simpa using decodeInput_byte_cases h

/-- SKIP's row: a running session, no frame begun, any byte but the marker. -/
theorem decodeInput_eq_skip_iff (c : Ctx) (b : Byte) (now : Time) :
    decodeInput c (.byte b now) = .ok (.skip b) ↔
      c.halted = false ∧ c.st = .awaitingStart ∧ b ≠ Config.marker := by
  refine ⟨fun h => ?_, fun ⟨hh, hs, hb⟩ => decodeInput_of_ne_marker hh hs hb now⟩
  simpa using decodeInput_byte_cases h

/-- PUSH's row: a running session, at most four bytes of a payload buffered, any byte. -/
theorem decodeInput_eq_push_iff (c : Ctx) (b : Byte) (now : Time) :
    decodeInput c (.byte b now) = .ok (.push b) ↔
      c.halted = false ∧ c.st = .readingPayload ∧ c.buf.length ≤ 4 := by
  refine ⟨fun h => ?_, fun ⟨hh, hs, hl⟩ => decodeInput_first_five hh hs (Nat.lt_succ_of_le hl) b now⟩
  simpa using decodeInput_byte_cases h

/-- Settles O17: a guarded operation whose row `decodeInput_marker` meets. -/
theorem sofStartsAFrame : Obligations.SofStartsAFrame := by
  unfold Obligations.SofStartsAFrame
  intro s now
  exact ⟨fun b => decodeInput_eq_sof_iff s.ctx b now,
    fun hh hs => whenSelected_of_selects _ (decodeInput_selects (decodeInput_marker hh hs now))⟩

/-- Settles O18: a guarded operation on the unchanged state. -/
theorem skipIgnoresNoise : Obligations.SkipIgnoresNoise := by
  unfold Obligations.SkipIgnoresNoise
  intro s b now
  exact ⟨decodeInput_eq_skip_iff s.ctx b now,
    fun hh hs hb => whenSelected_of_selects _ (decodeInput_selects (decodeInput_of_ne_marker hh hs hb now))⟩

/-- Settles O19: a guarded append; the appended byte stands right after the bytes there were. -/
theorem pushAppendsOneByte : Obligations.PushAppendsOneByte := by
  unfold Obligations.PushAppendsOneByte
  intro s b now
  have hrow := decodeInput_eq_push_iff s.ctx b now
  exact ⟨hrow, fun hh hs hl => ⟨whenSelected_of_selects _ (decodeInput_selects (hrow.2 ⟨hh, hs, hl⟩)),
    List.getElem?_concat_length, List.length_append⟩⟩

/-! ### What a decoder operation leaves (R61) -/

theorem exec_sof_next {now : Time} {s t : State} (h : exec (.sof now) s = .next t) : t = s.acceptMarker now :=
  ((whenSelected_next_iff _ _ _ _).1 h).2

theorem exec_skip_next {b : Byte} {s t : State} (h : exec (.skip b) s = .next t) : t = s :=
  ((whenSelected_next_iff _ _ _ _).1 h).2

theorem exec_push_next {b : Byte} {s t : State} (h : exec (.push b) s = .next t) : t = s.append b :=
  ((whenSelected_next_iff _ _ _ _).1 h).2

theorem exec_chkErr_next {b : Byte} {s t : State} (h : exec (.chkErr b) s = .next t) :
    t = ((s.append b).goto .awaitingStart).emit .checksumError :=
  ((whenSelected_next_iff _ _ _ _).1 h).2

/-- The tracker writes neither the decoder's elements nor the session's. -/
theorem trackSample_frame {o : FrameOperands} {a : Time} {s t : State} (h : trackSample o a s = .next t) :
    sameDecoder s t ∧ sameSession s t := by
  rw [trackSample_eq] at h
  cases h
  cases s.exp with
  | none => simp [sameDecoder, sameSession]
  | some e => by_cases hq : o.sequence = e <;> simp [hq, sameDecoder, sameSession]

/-- The tracker reports no checksum error. -/
theorem trackSample_checksumErrorCount {o : FrameOperands} {a : Time} {s t : State}
    (h : trackSample o a s = .next t) : checksumErrorCount t.out = checksumErrorCount s.out := by
  obtain ⟨t', ht', -, herr, -⟩ := trackSample_reports_one_record o a s
  obtain rfl : t' = t := by simpa [ht'] using h
  exact herr

/-- CHK.OK runs the tracker on the appended buffer, back in AwaitingStart. -/
theorem exec_chkOk_next {b : Byte} {s t : State} (h : exec (.chkOk b) s = .next t) :
    ∃ o : FrameOperands, trackSample o s.ts ((s.append b).goto .awaitingStart) = .next t := by
  obtain ⟨c, l1, h1, l2, h2, -, -, -, -, ht⟩ := execChkOk_next_cases h
  exact ⟨_, ht⟩

/-- To the decoder CHK.OK is the append and the return, whichever tracker operation runs. -/
theorem exec_chkOk_sameDecoder {b : Byte} {s t : State} (h : exec (.chkOk b) s = .next t) :
    sameDecoder ((s.append b).goto .awaitingStart) t := by
  obtain ⟨o, ht⟩ := exec_chkOk_next h
  exact (trackSample_frame ht).1

/-! ### CHK.OK (R65) -/

/-- Settles O20: `execChkOk_eq`, the tracker sub-step being the tracker operation of the table. -/
theorem chkOkRunsTheTracker : Obligations.ChkOkRunsTheTracker := by
  unfold Obligations.ChkOkRunsTheTracker
  intro s c l1 h1 l2 h2 hh hs hb
  have hl : s.ctx.buf.length = 5 := by simp [hb]
  have hsum : bufSum s.ctx.buf = cksum [c, l1, h1, l2, h2] := by rw [ctx_buf, hb, bufSum_five]
  refine ⟨fun b now => hsum ▸ decodeInput_eq_chkOk_iff (c := s.ctx) hh hs hl b now, _,
    (execChkOk_eq hh hs hb rfl).trans (trackSample_eq _ _ _), ?_⟩
  rw [← trackSample_eq, trackSample_eq_exec]
  simp only [State.append, State.goto, hb, List.cons_append, List.nil_append]

/-! ### The four transitions (R67) -/

/-- Once a session has begun, a byte that selects an operation is answered by it. -/
theorem deliver_byte_answers {s : State} {b : Byte} {now : Time} {i : Instr} (hst : s.started = true)
    (hi : decodeInput s.ctx (.byte b now) = .ok i) :
    ∃ t, deliver (.byte b now) s = .next t ∧ exec i s.clearOut = .next t := by
  have hsel : selects s.clearOut.ctx i = true := decodeInput_selects hi
  obtain ⟨t, ht⟩ := exec_next_of_selects hsel
  exact ⟨t, (deliver_eq_exec (.inl hst) hi).trans ht, ht⟩

/-- With no frame begun: SOF on the marker, SKIP on any other byte. -/
theorem deliver_byte_awaitingStart {s : State} (hst : s.started = true) (hh : s.halted = false)
    (hs : s.st = .awaitingStart) (b : Byte) (now : Time) :
    ∃ t, deliver (.byte b now) s = .next t ∧
      t.st = (if b = 0xAA#8 then .readingPayload else .awaitingStart) ∧
      decodeInput s.ctx (.byte b now) = .ok (if b = 0xAA#8 then .sof now else .skip b) := by
  by_cases hb : b = 0xAA#8
  · have hi := (decodeInput_eq_sof_iff s.ctx b now).2 ⟨hh, hs, hb⟩
    obtain ⟨t, hd, ht⟩ := deliver_byte_answers hst hi
    exact ⟨t, hd, by simp [exec_sof_next ht, hb], by rw [hi, if_pos hb]⟩
  · have hi := (decodeInput_eq_skip_iff s.ctx b now).2 ⟨hh, hs, hb⟩
    obtain ⟨t, hd, ht⟩ := deliver_byte_answers hst hi
    exact ⟨t, hd, by simp [exec_skip_next ht, hb, hs], by rw [hi, if_neg hb]⟩

/-- In a payload window: PUSH until five bytes are buffered, then one of the two checks; each appends the byte. -/
theorem deliver_byte_readingPayload {s : State} (hst : s.started = true) (hh : s.halted = false)
    (hs : s.st = .readingPayload) (hl : s.buf.length ≤ 5) (b : Byte) (now : Time) :
    ∃ t, deliver (.byte b now) s = .next t ∧
      t.st = (if s.buf.length ≤ 4 then .readingPayload else .awaitingStart) ∧
      decodeInput s.ctx (.byte b now) =
        .ok (if s.buf.length ≤ 4 then .push b
          else if b = cksum (s.buf.take 5) then .chkOk b else .chkErr b) ∧
      t.buf = s.buf ++ [b] := by
  by_cases h4 : s.buf.length ≤ 4
  · have hi := (decodeInput_eq_push_iff s.ctx b now).2 ⟨hh, hs, h4⟩
    obtain ⟨t, hd, ht⟩ := deliver_byte_answers hst hi
    obtain rfl := exec_push_next ht
    exact ⟨_, hd, by simp [h4, hs], by rw [hi, if_pos h4], rfl⟩
  · have h5 : s.buf.length = 5 := by omega
    by_cases hk : b = cksum (s.buf.take 5)
    · have hi := (decodeInput_eq_chkOk_iff (c := s.ctx) hh hs h5 b now).2 hk
      obtain ⟨t, hd, ht⟩ := deliver_byte_answers hst hi
      obtain ⟨hst', hbuf, -⟩ := exec_chkOk_sameDecoder ht
      exact ⟨t, hd, by rw [if_neg h4, hst']; rfl, by rw [hi, if_neg h4, if_pos hk], hbuf⟩
    · have hi := (decodeInput_eq_chkErr_iff (c := s.ctx) hh hs h5 b now).2 hk
      obtain ⟨t, hd, ht⟩ := deliver_byte_answers hst hi
      obtain rfl := exec_chkErr_next ht
      exact ⟨_, hd, by rw [if_neg h4]; rfl, by rw [hi, if_neg h4, if_neg hk], rfl⟩

theorem exec_reset_next {s t : State} (h : exec .reset s = .next t) : t = s.startSession :=
  ((whenSelected_next_iff .reset s _ _).1 h).2

theorem exec_stop_next {s t : State} (h : exec .stop s = .next t) : t = s.endSession false :=
  ((whenSelected_next_iff _ _ _ _).1 h).2

theorem exec_srcFail_next {s t : State} (h : exec .srcFail s = .next t) : t = s.endSession true :=
  ((whenSelected_next_iff _ _ _ _).1 h).2

/-- Settles O22: one lemma per synchronization state; the three system operations leave one state each. -/
theorem decoderHasFourTransitions : Obligations.DecoderHasFourTransitions := by
  unfold Obligations.DecoderHasFourTransitions
  intro s b now hst hh hl
  have hreset u (h : exec .reset s = .next u) : u.st = .awaitingStart := by simp [exec_reset_next h]
  have hstop u (h : exec .stop s = .next u) : u.st = .awaitingStart := by simp [exec_stop_next h]
  have hsrcFail u (h : exec .srcFail s = .next u) : u.st = .awaitingStart := by simp [exec_srcFail_next h]
  cases hs : s.st with
  | awaitingStart =>
    obtain ⟨t, hd, hnext, hi⟩ := deliver_byte_awaitingStart hst hh hs b now
    exact ⟨t, hd, hnext, hi, nofun, hreset, hstop, hsrcFail⟩
  | readingPayload =>
    obtain ⟨t, hd, hnext, hi, hbuf⟩ := deliver_byte_readingPayload hst hh hs (hl hs) b now
    exact ⟨t, hd, hnext, hi, fun _ => hbuf, hreset, hstop, hsrcFail⟩

/-! ### Events, frame and independence (R61) -/

/-- What a format B operation leaves of the decoder's elements depends on those elements and its operands only. -/
theorem exec_formatB_sameDecoder {i : Instr} {s t u v : State} (hi : rowFormat i = 'B') (h : sameDecoder s u)
    (ht : exec i s = .next t) (hv : exec i u = .next v) : sameDecoder t v := by
  have ⟨hs, hb, hts⟩ := h
  have happ (b : Byte) : (u.append b).buf = (s.append b).buf := congrArg (· ++ [b]) hb
  cases i with
  | sof now =>
    obtain ⟨rfl, rfl⟩ := And.intro (exec_sof_next ht) (exec_sof_next hv)
    exact ⟨rfl, rfl, rfl⟩
  | skip b =>
    obtain ⟨rfl, rfl⟩ := And.intro (exec_skip_next ht) (exec_skip_next hv)
    exact h
  | push b =>
    obtain ⟨rfl, rfl⟩ := And.intro (exec_push_next ht) (exec_push_next hv)
    exact ⟨hs, happ b, hts⟩
  | chkOk b =>
    obtain ⟨hst, hbt, htt⟩ := exec_chkOk_sameDecoder ht
    obtain ⟨hsv, hbv, htv⟩ := exec_chkOk_sameDecoder hv
    exact ⟨hsv.trans hst.symm, hbv.trans ((happ b).trans hbt.symm), htv.trans (hts.trans htt.symm)⟩
  | chkErr b =>
    obtain ⟨rfl, rfl⟩ := And.intro (exec_chkErr_next ht) (exec_chkErr_next hv)
    exact ⟨rfl, happ b, hts⟩
  | trkFirst | trkSeq | trkGap | reset | idle | stop | srcFail | hold => simp [rowFormat] at hi

/-- Only SOF samples the time of its byte: inside a frame, and for any byte but the marker, the time is not read. -/
theorem decodeInput_time_unread {c : Ctx} {b : Byte} (h : c.st = .readingPayload ∨ b ≠ Config.marker)
    (n1 n2 : Time) : decodeInput c (.byte b n1) = decodeInput c (.byte b n2) := by
  rcases h with hs | hb
  · simp only [decodeInput, decodeByte, hs]
  · simp only [decodeInput, decodeByte, if_neg hb]

/-- A byte acts through the operation it selects and in no other way. -/
theorem deliver_byte_congr {s : State} {b : Byte} {n1 n2 : Time}
    (h : decodeInput s.ctx (.byte b n1) = decodeInput s.ctx (.byte b n2)) :
    deliver (.byte b n1) s = deliver (.byte b n2) s := by
  have hc : s.clearOut.ctx = s.ctx := rfl
  simp only [deliver, perform, hc, h]
  rfl

/-- Settles O23: the state each operation leaves, and for CHK.OK what the tracker leaves and reports. -/
theorem decoderOperationsEmitAtMostOneEvent : Obligations.DecoderOperationsEmitAtMostOneEvent := by
  unfold Obligations.DecoderOperationsEmitAtMostOneEvent
  intro s t
  refine ⟨fun now h => ?_, fun b h => ?_, fun b h => ?_, fun b h => ?_, fun b h => ?_,
    fun i u v hi ht hd _ hv => exec_formatB_sameDecoder hi hd ht hv,
    fun b n1 n2 h => deliver_byte_congr (decodeInput_time_unread h n1 n2)⟩
  · obtain rfl := exec_sof_next h
    simp [sameLoss, sameSession]
  · obtain rfl := exec_skip_next h
    simp [sameLoss, sameSession]
  · obtain rfl := exec_push_next h
    simp [sameLoss, sameSession]
  · obtain rfl := exec_chkErr_next h
    simp [sameLoss, sameSession]
  · obtain ⟨o, ht⟩ := exec_chkOk_next h
    obtain ⟨r, hr, -⟩ := trackSample_recordsOf ht
    have herr := trackSample_checksumErrorCount ht
    exact ⟨(trackSample_frame ht).2, r, hr, herr⟩

end Sys2Proof.Machine
end

section
/-! The tracker operations (41_tracker_ops.md). Each is selected by the expected counter and by the sequence number,
and leaves one named state; the expected counter, once set, is only ever replaced by another number until RESET. -/

namespace Sys2Proof.Machine

/-! ### Which tracker operation is selected (R71, R72) -/

/-- TRK.FIRST's row: nothing is expected. -/
theorem selectTracker_none (q : Byte) (c1 c2 : Sample) (a : Time) :
    selectTracker none q c1 c2 a = .trkFirst q c1 c2 a := rfl

/-- TRK.SEQ's row: the sequence number is the expected one. -/
theorem selectTracker_expected (q : Byte) (c1 c2 : Sample) (a : Time) :
    selectTracker (some q) q c1 c2 a = .trkSeq q c1 c2 a := if_pos rfl

/-- A sequence number is seen modulo 256, so whole turns of the counter do not show. -/
theorem ofNat_add_256_mul (e : Byte) (k : Nat) : BitVec.ofNat 8 (e.toNat + 256 * k) = e := by
  apply BitVec.eq_of_toNat_eq
  rw [BitVec.toNat_ofNat, Nat.add_mul_mod_self_left, Nat.mod_eq_of_lt e.isLt]

/-! ### What a tracker operation leaves -/

theorem exec_trkFirst_eq {s : State} (h : s.exp = none) (q : Byte) (c1 c2 : Sample) (a : Time) :
    exec (.trkFirst q c1 c2 a) s = .next ((s.expectAfter q).acceptSample q c1 c2 a true) := by
  simpa [h, selectTracker_none] using exec_selectTracker_eq q c1 c2 a s

theorem exec_trkSeq_eq {s : State} {q : Byte} (h : s.exp = some q) (c1 c2 : Sample) (a : Time) :
    exec (.trkSeq q c1 c2 a) s = .next ((s.expectAfter q).acceptSample q c1 c2 a false) := by
  simpa [h, selectTracker_expected] using exec_selectTracker_eq q c1 c2 a s

/-- Whichever tracker operation runs, it leaves the successor of its sequence number expected. -/
theorem exec_selectTracker_exp {q : Byte} {c1 c2 : Sample} {a : Time} {s t : State}
    (h : exec (selectTracker s.exp q c1 c2 a) s = .next t) : t.exp = some (inc8 q) := by
  rw [exec_selectTracker_eq] at h
  cases h
  cases s.exp with
  | none => rfl
  | some e => by_cases hq : q = e <;> simp [hq]

/-- An operation other than RESET leaves the expected counter as it is, or leaves a number expected. -/
theorem exec_exp_cases {i : Instr} {s t : State} (hi : i ≠ .reset) (h : exec i s = .next t) :
    t.exp = s.exp ∨ ∃ q, t.exp = some (inc8 q) := by
  rcases exec_next_cases h with ⟨now, -, -, -, rfl⟩ | ⟨b, -, -, -, -, rfl⟩ | ⟨b, -, -, -, -, rfl⟩ |
    ⟨b, c, l1, h1, l2, h2, -, -, -, -, -, ht⟩ | ⟨b, -, -, -, -, -, rfl⟩ | ⟨q, c1, c2, a, -, -, rfl⟩ |
    ⟨q, c1, c2, a, -, -, rfl⟩ | ⟨q, c1, c2, a, e, -, -, -, rfl⟩ | ⟨hreset, -⟩ | ⟨-, -, rfl⟩ | ⟨-, -, rfl⟩ |
    ⟨-, -, rfl⟩ | ⟨-, -, rfl⟩
  · exact .inl rfl
  · exact .inl rfl
  · exact .inl rfl
  · exact .inr ⟨c, exec_selectTracker_exp (s := (s.append b).goto .awaitingStart) ht⟩
  · exact .inl rfl
  · exact .inr ⟨q, rfl⟩
  · exact .inr ⟨q, rfl⟩
  · exact .inr ⟨q, rfl⟩
  · exact absurd hreset hi
  · exact .inl rfl
  · exact .inl rfl
  · exact .inl rfl
  · exact .inl rfl

/-! ### TRK.FIRST and TRK.SEQ (R71, R72) -/

/-- Settles O24: the row, the state `exec_trkFirst_eq` names, and the expected counter never given up again. -/
theorem trkFirstAcceptsUnconditionally : Obligations.TrkFirstAcceptsUnconditionally := by
  unfold Obligations.TrkFirstAcceptsUnconditionally
  refine ⟨fun s q c1 c2 a h => ⟨h ▸ selectTracker_none q c1 c2 a, exec_trkFirst_eq h q c1 c2 a⟩, by decide,
    fun i s t hs hi h => ?_⟩
  rcases exec_exp_cases hi h with hexp | ⟨q, hexp⟩
  · exact hexp ▸ hs
  · simp [hexp]

/-- Settles O25: the row and the state `exec_trkSeq_eq` names; a loss of whole turns shows the expected number. -/
theorem trkSeqAdvances : Obligations.TrkSeqAdvances := by
  unfold Obligations.TrkSeqAdvances
  refine ⟨fun s q c1 c2 a h => ⟨h ▸ selectTracker_expected q c1 c2 a, exec_trkSeq_eq h c1 c2 a⟩, by decide,
    fun e k c1 c2 a => ?_⟩
  rw [ofNat_add_256_mul]
  exact selectTracker_expected e c1 c2 a

end Sys2Proof.Machine
end

section
/-! IDLE (42_system_ops.md R80). In a begun session the step on an idle report only drops the outputs of the step
before, whether the session runs (IDLE) or has ended (HOLD); the next input's step drops them anyway, so the rest of
the run does not see the report. Every step keeps the session begun, so this holds wherever the report stands. -/

namespace Sys2Proof.Machine

/-! ### The step on an idle report -/

/-- A running session answers an idle report by IDLE. -/
theorem decodeInput_idle_running {c : Ctx} (h : c.halted = false) : decodeInput c .idle = .ok .idle := by
  simp [decodeInput, h]

/-- An ended session answers an idle report by HOLD. -/
theorem decodeInput_idle_ended {c : Ctx} (h : c.halted = true) : decodeInput c .idle = .ok .hold := by
  simp [decodeInput, h]

/-- IDLE's row: a running session. -/
theorem decodeInput_eq_idle_iff (c : Ctx) : decodeInput c .idle = .ok .idle ↔ c.halted = false := by
  refine ⟨fun h => ?_, decodeInput_idle_running⟩
  by_contra hh
  rw [decodeInput_idle_ended (Bool.eq_true_of_not_eq_false hh)] at h
  cases h

theorem exec_idle_eq {s : State} (h : s.halted = false) : exec .idle s = .next s :=
  whenSelected_of_selects s (decodeInput_selects (decodeInput_idle_running (c := s.ctx) h))

theorem exec_hold_eq {s : State} (h : s.halted = true) : exec .hold s = .next s :=
  whenSelected_of_selects s (decodeInput_selects (decodeInput_idle_ended (c := s.ctx) h))

/-- Running or ended, a begun session takes an idle report with no effect but on the outputs of the step before. -/
theorem deliver_idle {s : State} (hst : s.started = true) : deliver .idle s = .next s.clearOut := by
  cases hh : s.halted with
  | false => exact (deliver_eq_exec (.inl hst) (decodeInput_idle_running hh)).trans (exec_idle_eq hh)
  | true => exact (deliver_eq_exec (.inl hst) (decodeInput_idle_ended hh)).trans (exec_hold_eq hh)

/-! ### A begun session stays begun -/

theorem exec_started {i : Instr} {s t : State} (hst : s.started = true) (h : exec i s = .next t) :
    t.started = true := by
  rcases exec_next_cases h with ⟨now, -, -, -, rfl⟩ | ⟨b, -, -, -, -, rfl⟩ | ⟨b, -, -, -, -, rfl⟩ |
    ⟨b, c, l1, h1, l2, h2, rfl, -⟩ | ⟨b, -, -, -, -, -, rfl⟩ | ⟨q, c1, c2, a, -, -, rfl⟩ |
    ⟨q, c1, c2, a, -, -, rfl⟩ | ⟨q, c1, c2, a, e, -, -, -, rfl⟩ | ⟨-, rfl⟩ | ⟨-, -, rfl⟩ | ⟨-, -, rfl⟩ |
    ⟨-, -, rfl⟩ | ⟨-, -, rfl⟩
  case inr.inr.inr.inl =>
    obtain ⟨o, ht⟩ := exec_chkOk_next h
    obtain ⟨-, -, -, hsame, -⟩ := trackSample_frame ht
    exact hsame.trans hst
  case inr.inr.inr.inr.inr.inr.inr.inr.inl => exact startSession_started s
  all_goals exact hst

theorem deliver_started {inp : Input} {s t : State} (hst : s.started = true) (h : deliver inp s = .next t) :
    t.started = true := by
  obtain ⟨i, -, -, ht⟩ := deliver_next_cases h
  exact exec_started (s := s.clearOut) hst ht

/-! ### Runs -/

/-- A step begins by dropping the outputs of the step before, so dropping them beforehand does not show. -/
theorem deliver_clearOut (inp : Input) (s : State) : deliver inp s.clearOut = deliver inp s := rfl

/-- A run of at least one input does not see the outputs of the step before it. -/
theorem runInputs_clearOut {ys : List Input} (h : ys ≠ []) (s : State) :
    runInputs s.clearOut ys = runInputs s ys := by
  cases ys with
  | nil => exact absurd rfl h
  | cons y ys => simp only [runInputs, deliver_clearOut]

/-- A step with no output adds nothing to the run of the rest, whatever the rest answers. -/
theorem runInputs_cons_silent {s t : State} {inp : Input} (h : deliver inp s = .next t) (hout : t.out = [])
    (rest : List Input) : runInputs s (inp :: rest) = runInputs t rest := by
  simp only [runInputs, h, hout, List.nil_append]
  cases runInputs t rest <;> rfl

/-- Two runs with the same first input are the same where they are from the state that input leaves. -/
theorem runInputs_cons_congr {s : State} {inp : Input} {xs ys : List Input}
    (h : ∀ t, deliver inp s = .next t → runInputs t xs = runInputs t ys) :
    runInputs s (inp :: xs) = runInputs s (inp :: ys) := by
  simp only [runInputs]
  cases hd : deliver inp s with
  | next t => simp only [h t hd]
  | fault r => rfl
  | refused r => rfl

/-- An idle report before another input of a begun session is invisible. -/
theorem runInputs_idle_cons {s : State} {ys : List Input} (hst : s.started = true) (hys : ys ≠ []) :
    runInputs s (.idle :: ys) = runInputs s ys :=
  (runInputs_cons_silent (deliver_idle hst) (clearOut_out s) ys).trans (runInputs_clearOut hys s)

/-- The same after any inputs. -/
theorem runInputs_append_idle_cons {ys : List Input} (hys : ys ≠ []) (xs : List Input) {s : State}
    (hst : s.started = true) : runInputs s (xs ++ .idle :: ys) = runInputs s (xs ++ ys) := by
  induction xs generalizing s with
  | nil => exact runInputs_idle_cons hst hys
  | cons x xs ih => exact runInputs_cons_congr fun t ht => ih (deliver_started hst ht)

/-- Settles O30: IDLE's row and its unchanged state; in a run, by induction on the inputs before the report. -/
theorem idleChangesNothing : Obligations.IdleChangesNothing := by
  unfold Obligations.IdleChangesNothing
  exact ⟨fun s => decodeInput_eq_idle_iff s.ctx, fun s hh => exec_idle_eq hh,
    fun s xs ys hst hys => runInputs_append_idle_cons hys xs hst⟩

end Sys2Proof.Machine
end

section
/-! The encoding (30_encoding.md sections 3 and 4). Whatever a word selects meets its row, in each of the three formats;
read backwards, the word of a well-formed operation whose row holds selects that operation. -/

namespace Sys2Proof.Machine

/-! ### What a word selects meets its row (R55) -/

/-- A control word that selects an operation selects what an input without a byte selects. -/
theorem decodeControl_eq_input {c : Ctx} {w : BitVec 4} {i : Instr} (h : decodeControl c w = .ok i) :
    ∃ inp, decodeInput c inp = .ok i := by
  unfold decodeControl at h
  split at h
  · exact ⟨.reset, h⟩
  · cases hh : c.halted with
    | true => exact ⟨.idle, by simpa [decodeInput, hh] using h⟩
    | false =>
      simp only [hh, Bool.false_eq_true, if_false] at h
      split at h
      · exact ⟨.srcFail, by simpa [decodeInput, hh] using h⟩
      · split at h
        · exact ⟨.stop, by simpa [decodeInput, hh] using h⟩
        · split at h
          · cases h
          · exact ⟨.idle, by simpa [decodeInput, hh] using h⟩

/-- An operation an input selects is well-formed: SKIP is selected by no marker. -/
theorem decodeInput_wellFormed {c : Ctx} {inp : Input} {i : Instr} (h : decodeInput c inp = .ok i) :
    i.wellFormed = true := by
  rcases decodeInput_cases h with ⟨-, rfl⟩ | ⟨-, -, rfl⟩ | ⟨-, -, rfl⟩ | ⟨-, -, rfl⟩ | ⟨-, -, rfl⟩ |
    ⟨b, now, -, -, ⟨-, -, rfl⟩ | ⟨-, hb, rfl⟩ | ⟨-, -, rfl⟩ | ⟨-, -, -, rfl⟩ | ⟨-, -, -, rfl⟩⟩
  case inr.inr.inr.inr.inr.inr.inl => exact bne_iff_ne.2 hb
  all_goals rfl

/-- Every operand of a tracker operation is well-formed. -/
theorem selectTracker_wellFormed (e : Option Byte) (q : Byte) (c1 c2 : Sample) (a : Time) :
    (selectTracker e q c1 c2 a).wellFormed = true := by
  unfold selectTracker
  split
  · rfl
  · split <;> rfl

/-- Whatever a word of any format selects is well-formed and meets its row's condition. -/
theorem decode_meets_row {c : Ctx} {w : OpWord} {i : Instr} (h : decode c w = .ok i) :
    i.wellFormed = true ∧ selects c i = true := by
  cases w with
  | b data now =>
    have hi : decodeInput c (.byte data now) = .ok i := h
    exact ⟨decodeInput_wellFormed hi, decodeInput_selects hi⟩
  | t q c1 c2 a =>
    obtain rfl := Except.ok.inj h
    exact ⟨selectTracker_wellFormed c.exp q c1 c2 a, selectTracker_selects c q c1 c2 a⟩
  | c word =>
    obtain ⟨inp, hi⟩ := decodeControl_eq_input h
    exact ⟨decodeInput_wellFormed hi, decodeInput_selects hi⟩

/-- No row holds a byte of a payload window with six or more bytes buffered. -/
theorem decodeInput_byte_past_window {c : Ctx} (hh : c.halted = false) (hs : c.st = .readingPayload)
    (hl : 6 ≤ c.buf.length) (b : Byte) (now : Time) : decodeInput c (.byte b now) = .error .noSelectionRow := by
  have h4 : ¬ c.buf.length ≤ 4 := by omega
  have h5 : c.buf.length ≠ 5 := by omega
  simp [decodeInput, decodeByte, hh, hs, h4, h5]

/-- An input other than a byte selects an operation at every position. -/
theorem byte_of_decodeInput_error {c : Ctx} {inp : Input} {r : Reject} (h : decodeInput c inp = .error r) :
    ∃ b now, inp = .byte b now := by
  cases inp with
  | byte b now => exact ⟨b, now, rfl⟩
  | reset => cases h
  | idle | stop | srcFail =>
    simp only [decodeInput] at h
    split at h <;> cases h

/-- Settles O14: the three formats by `decode_meets_row`; the one position without a row, read both ways. -/
theorem decodedOperationMeetsItsRow : Obligations.DecodedOperationMeetsItsRow := by
  unfold Obligations.DecodedOperationMeetsItsRow
  refine ⟨fun c w i => decode_meets_row, fun c inp => ⟨fun ⟨r, h⟩ => ?_, ?_⟩⟩
  · obtain ⟨hh, hs, hl⟩ := decodeInput_error h
    exact ⟨hh, hs, hl, byte_of_decodeInput_error h⟩
  · rintro ⟨hh, hs, hl, b, now, rfl⟩
    exact ⟨_, decodeInput_byte_past_window hh hs hl b now⟩

/-! ### The word of an operation selects it -/

/-- The word of an operation whose row is met selects that operation, with every operand; SKIP's row keeps out the
marker, so the row alone is enough. -/
theorem decode_encode {c : Ctx} {i : Instr} (h : selects c i = true) :
    decode c (encode i) = .ok i := by
  cases i with
  | sof now =>
    have hrow : c.halted = false ∧ c.st = .awaitingStart := by simpa [selects] using h
    exact decodeInput_marker hrow.1 hrow.2 now
  | skip b =>
    have hrow : (c.halted = false ∧ c.st = .awaitingStart) ∧ b ≠ Config.marker := by simpa [selects] using h
    exact decodeInput_of_ne_marker hrow.1.1 hrow.1.2 hrow.2 0
  | push b =>
    have hrow : (c.halted = false ∧ c.st = .readingPayload) ∧ c.buf.length ≤ 4 := by simpa [selects] using h
    exact (decodeInput_eq_push_iff c b 0).2 ⟨hrow.1.1, hrow.1.2, hrow.2⟩
  | chkOk b =>
    have hrow : ((c.halted = false ∧ c.st = .readingPayload) ∧ c.buf.length = 5) ∧ b = bufSum c.buf := by
      simpa [selects] using h
    obtain ⟨⟨⟨hh, hs⟩, hl⟩, hk⟩ := hrow
    exact (decodeInput_eq_chkOk_iff hh hs hl b 0).2 hk
  | chkErr b =>
    have hrow : ((c.halted = false ∧ c.st = .readingPayload) ∧ c.buf.length = 5) ∧ b ≠ bufSum c.buf := by
      simpa [selects] using h
    obtain ⟨⟨⟨hh, hs⟩, hl⟩, hk⟩ := hrow
    exact (decodeInput_eq_chkErr_iff hh hs hl b 0).2 hk
  | trkFirst q c1 c2 a =>
    have he : c.exp = none := by simpa [selects] using h
    simp [decode, encode, he, selectTracker_none]
  | trkSeq q c1 c2 a =>
    have he : c.exp = some q := by simpa [selects] using h
    simp [decode, encode, he, selectTracker_expected]
  | trkGap q c1 c2 a =>
    cases he : c.exp with
    | none => simp [selects, he] at h
    | some e =>
      have hq : q ≠ e := fun hqe => by simp [selects, he, hqe] at h
      simp [decode, encode, selectTracker, he, hq]
  | reset => rfl
  | idle | stop | srcFail =>
    have hh : c.halted = false := by simpa [selects] using h
    simp [decode, encode, decodeControl, hh]
  | hold => simp [decode, encode, decodeControl, show c.halted = true from h]

/-- Settles O13: an operation decoded from its word meets its row, and an operation that meets its row is decoded. -/
theorem decodeOfEncodeIsTheOperation : Obligations.DecodeOfEncodeIsTheOperation := by
  unfold Obligations.DecodeOfEncodeIsTheOperation
  exact fun c i => ⟨decode_meets_row, fun ⟨_, h⟩ => decode_encode h⟩

/-- Settles O15: each word evaluated in the state that selects its operation. -/
theorem writtenOutWordsDecode : Obligations.WrittenOutWordsDecode := by
  unfold Obligations.WrittenOutWordsDecode
  exact ⟨rfl, rfl, rfl, rfl, rfl, rfl, rfl, rfl, rfl, rfl, rfl⟩

end Sys2Proof.Machine
end

section
/-! The invariants of 10_state.md section 2: they hold right after reset, each operation an input can select keeps
them, and where they hold no input is refused or faults. The tracker runs inside CHK.OK only, where six bytes are
buffered; by itself it would break the agreement of LossState with a fresh session. -/

namespace Sys2Proof.Machine

/-! ### The invariant at reset and through each state operation -/

theorem inv_startSession (s : State) : inv s.startSession := by
  simp [inv, positionOk, sessionOk]

theorem inv_acceptMarker {s : State} (h : inv s) (hh : s.halted = false) (now : Time) :
    inv (s.acceptMarker now) := by
  obtain ⟨hst, -, -, hfatal, hloss, -⟩ := h
  exact ⟨hst, by simp [positionOk], by simpa [sessionOk, hh] using ⟨by simpa [hh] using hfatal, hloss⟩⟩

/-- A byte stored in a payload window with at most four buffered leaves at most five. -/
theorem inv_append {s : State} (h : inv s) (hh : s.halted = false) (hs : s.st = .readingPayload)
    (hl : s.buf.length ≤ 4) (b : Byte) : inv (s.append b) := by
  obtain ⟨hst, -, -, hfatal, hloss, -⟩ := h
  have h5 : s.buf.length < 5 := by omega
  have h6 : s.buf.length + 1 ≤ 6 := by omega
  exact ⟨hst, by simp [positionOk, hs, h5, h6], by simpa [sessionOk, hh, hs] using ⟨by simpa [hh] using hfatal, hloss⟩⟩

/-- The position after a complete frame: AwaitingStart with six bytes buffered. -/
theorem positionOk_of_six {s : State} (hs : s.st = .awaitingStart) (hl : s.buf.length = 6) : positionOk s := by
  simp [positionOk, hs, hl]

/-- A failed frame leaves six bytes buffered, and LossState as it was. -/
theorem inv_chkErr {s : State} (h : inv s) (hl : s.buf.length = 5) (b : Byte) :
    inv (((s.append b).goto .awaitingStart).emit .checksumError) := by
  obtain ⟨hst, -, -, hfatal, hloss, -⟩ := h
  exact ⟨hst, positionOk_of_six rfl (by simp [hl]), by simpa [sessionOk] using ⟨hfatal, hloss⟩⟩

/-- A valid frame leaves six bytes buffered and a number expected. -/
theorem inv_of_six_expecting {t : State} {q : Byte} (hst : t.started = true) (hs : t.st = .awaitingStart)
    (hl : t.buf.length = 6) (hexp : t.exp = some q) (hfatal : t.fatal = true → t.halted = true) : inv t := by
  have hne : t.buf ≠ [] := fun h0 => by simp [h0] at hl
  exact ⟨hst, positionOk_of_six hs hl, by simpa [sessionOk, hs, hexp, hne] using hfatal⟩

/-- A session may end with a partial frame buffered. -/
theorem inv_endSession {s : State} (h : inv s) (failed : Bool) : inv (s.endSession failed) := by
  obtain ⟨hst, ⟨hread, hawait, h6⟩, -, -, hloss, -⟩ := h
  refine ⟨hst, ⟨nofun, fun _ => ?_, h6⟩, by simpa [sessionOk] using hloss⟩
  cases hs : s.st with
  | readingPayload => exact .inr (.inr ⟨hread hs, rfl⟩)
  | awaitingStart =>
    rcases hawait hs with h0 | h6 | ⟨h5, -⟩
    · exact .inl h0
    · exact .inr (.inl h6)
    · exact .inr (.inr ⟨h5, rfl⟩)

/-- Every operation an input can select keeps the invariant. -/
theorem exec_inv {i : Instr} {s t : State} (hinv : inv s) (hi : rowFormat i ≠ 'T') (h : exec i s = .next t) :
    inv t := by
  rcases exec_next_cases h with ⟨now, -, hh, -, rfl⟩ | ⟨b, -, -, -, -, rfl⟩ | ⟨b, -, hh, hs, hl, rfl⟩ |
    ⟨b, c, l1, h1, l2, h2, rfl, -, -, hb, -, ht⟩ | ⟨b, -, -, -, hl, -, rfl⟩ | ⟨q, c1, c2, a, rfl, -⟩ |
    ⟨q, c1, c2, a, rfl, -⟩ | ⟨q, c1, c2, a, e, rfl, -⟩ | ⟨-, rfl⟩ | ⟨-, -, rfl⟩ | ⟨-, -, rfl⟩ |
    ⟨-, -, rfl⟩ | ⟨-, -, rfl⟩
  · exact inv_acceptMarker hinv hh now
  · exact hinv
  · exact inv_append hinv hh hs hl b
  · obtain ⟨hst, hbuf, -⟩ := exec_chkOk_sameDecoder h
    obtain ⟨o, htrk⟩ := exec_chkOk_next h
    obtain ⟨hhalted, hfatal, hstarted, -⟩ := (trackSample_frame htrk).2
    obtain ⟨hbegun, -, -, hfatal', -, -⟩ := hinv
    exact inv_of_six_expecting (hstarted.trans hbegun) hst (by simp [hbuf, hb])
      (exec_selectTracker_exp (s := (s.append b).goto .awaitingStart) ht)
      (fun hf => hhalted.trans (hfatal' (hfatal.symm.trans hf)))
  · exact inv_chkErr hinv hl b
  · exact absurd rfl hi
  · exact absurd rfl hi
  · exact absurd rfl hi
  · exact inv_startSession s
  · exact hinv
  · exact inv_endSession hinv false
  · exact inv_endSession hinv true
  · exact hinv

/-! ### Steps and runs -/

/-- What the host delivers keeps the invariant. -/
theorem deliver_inv {inp : Input} {s t : State} (hinv : inv s) (h : deliver inp s = .next t) : inv t := by
  obtain ⟨i, -, hi, ht⟩ := deliver_next_cases h
  exact exec_inv (s := s.clearOut) hinv (decodeInput_not_tracker hi) ht

/-- Where the invariant holds every input selects an operation. -/
theorem decodeInput_of_inv {s : State} (hinv : inv s) (inp : Input) : ∃ i, decodeInput s.ctx inp = .ok i := by
  cases hi : decodeInput s.ctx inp with
  | ok i => exact ⟨i, rfl⟩
  | error r =>
    obtain ⟨-, hs, hl⟩ := decodeInput_error hi
    obtain ⟨-, ⟨hread, -⟩, -⟩ := hinv
    exact absurd (hread hs) (by rw [ctx_buf] at hl; omega)

/-- Where the invariant holds every input is answered. -/
theorem deliver_answers {s : State} (hinv : inv s) (inp : Input) : ∃ t, deliver inp s = .next t := by
  obtain ⟨i, hi⟩ := decodeInput_of_inv hinv inp
  have hsel : selects s.clearOut.ctx i = true := decodeInput_selects hi
  obtain ⟨t, ht⟩ := exec_next_of_selects hsel
  exact ⟨t, (deliver_eq_exec (.inl hinv.1) hi).trans ht⟩

/-- Where the invariant holds a run answers, and ends where the invariant holds. -/
theorem runInputs_answers (xs : List Input) {s : State} (hinv : inv s) :
    ∃ t outs, runInputs s xs = .next (t, outs) ∧ inv t := by
  induction xs generalizing s with
  | nil => exact ⟨s, [], rfl, hinv⟩
  | cons x xs ih =>
    obtain ⟨t, ht⟩ := deliver_answers hinv x
    obtain ⟨u, outs, hu, hinvu⟩ := ih (deliver_inv hinv ht)
    exact ⟨u, t.out ++ outs, runInputs_cons_next ht hu, hinvu⟩

/-- Settles O38: the reset state is a session just started; the host's inputs are in no clause. -/
theorem resetMeetsTheInvariant : Obligations.ResetMeetsTheInvariant := by
  unfold Obligations.ResetMeetsTheInvariant
  exact ⟨inv_startSession State.reset, fun xs => inv_startSession { State.reset with inputs := xs }⟩

/-- Settles O39: consuming the queue is in no clause, so `deliver_inv` is the step. -/
theorem everyStepKeepsTheInvariant : Obligations.EveryStepKeepsTheInvariant := by
  unfold Obligations.EveryStepKeepsTheInvariant
  intro s t hinv h
  exact deliver_inv (s := consume s) hinv h

/-- Settles O41: one input by `deliver_answers`, the host's queue being in no clause, and runs by induction. -/
theorem noStepStopsInABegunSession : Obligations.NoStepStopsInABegunSession := by
  unfold Obligations.NoStepStopsInABegunSession
  exact ⟨fun s hinv => deliver_answers (s := consume s) hinv (nextInput s),
    fun s inp hinv => deliver_answers hinv inp, fun s xs hinv => runInputs_answers xs hinv⟩

/-! ### The positions of a running session -/

/-- The inputs that bring a fresh session to a payload window with `k` zero bytes buffered, or to the end of a valid
frame for `k = 6`. -/
def markerThenZeros (k : Nat) : List Input :=
  byteInputs 0 (Config.marker :: List.replicate k 0)

/-- Settles O40: the invariant leaves eight positions to a running session; an all-zero frame passes through them. -/
theorem reachablePositionsAreEight : Obligations.ReachablePositionsAreEight := by
  unfold Obligations.ReachablePositionsAreEight
  refine ⟨fun s hinv hh => ?_, fun p hp => ?_⟩
  · obtain ⟨-, ⟨hread, hawait, -⟩, -⟩ := hinv
    cases hs : s.st with
    | awaitingStart => simpa [State.position, hs, hh] using hawait hs
    | readingPayload =>
      have hl := hread hs
      simp only [State.position, hs, List.mem_cons, Prod.mk.injEq, reduceCtorEq, false_and, false_or, true_and,
        List.not_mem_nil, or_false]
      omega
  · simp only [List.mem_cons, List.not_mem_nil, or_false] at hp
    rcases hp with rfl | rfl | rfl | rfl | rfl | rfl | rfl | rfl
    · exact ⟨[], _, _, rfl, rfl, rfl⟩
    · exact ⟨markerThenZeros 6, _, _, rfl, rfl, rfl⟩
    · exact ⟨markerThenZeros 0, _, _, rfl, rfl, rfl⟩
    · exact ⟨markerThenZeros 1, _, _, rfl, rfl, rfl⟩
    · exact ⟨markerThenZeros 2, _, _, rfl, rfl, rfl⟩
    · exact ⟨markerThenZeros 3, _, _, rfl, rfl, rfl⟩
    · exact ⟨markerThenZeros 4, _, _, rfl, rfl, rfl⟩
    · exact ⟨markerThenZeros 5, _, _, rfl, rfl, rfl⟩

end Sys2Proof.Machine
end

section
/-! The Loss Tracker (41_tracker_ops.md). The three operations leave one and the same state, written with the loss the
expected counter shows for the sequence number: none at all while nothing is expected, and none that is reported when
the number is the expected one. What is read and written can then be seen at once. -/

namespace Sys2Proof.Machine

/-! ### The loss a sequence number shows -/

theorem add64_zero (a : Total) : add64 a 0 = a := by
  simp [add64_eq_add]

theorem add64_add64 (a : Total) (m n : Nat) : add64 (add64 a m) n = add64 a (m + n) := by
  rw [add64_eq_add, add64_eq_add, add64_eq_add, BitVec.ofNat_add, BitVec.add_assoc]

theorem gap8_self (q : Byte) : gap8 q q = 0 := (gap8_eq_zero_iff q q).2 rfl

/-- The diagnostic before the sample (D18): a gap where another number was expected. -/
def lossReport (exp : Option Byte) (q : Byte) : List Output :=
  match exp with
  | none => []
  | some e => if q = e then [] else [.lost (gap8 q e)]

/-- The number of frames the expected counter shows to be missing. -/
def lossCount (exp : Option Byte) (q : Byte) : Nat :=
  match exp with
  | none => 0
  | some e => (gap8 q e).toNat

/-- The report and the count agree: the expected number has gap zero. -/
theorem sum_gapsOf_lossReport (exp : Option Byte) (q : Byte) :
    ((gapsOf (lossReport exp q)).map BitVec.toNat).sum = lossCount exp q := by
  cases exp with
  | none => rfl
  | some e => by_cases hq : q = e <;> simp [lossReport, lossCount, gapsOf, hq, gap8_self]

/-- A loss report alone holds no record. -/
theorem recordsOf_lossReport (exp : Option Byte) (q : Byte) : recordsOf (lossReport exp q) = [] := by
  cases exp with
  | none => rfl
  | some e => by_cases hq : q = e <;> simp [lossReport, recordsOf, hq]

/-- A loss report alone holds no summary. -/
theorem summaryCount_lossReport (exp : Option Byte) (q : Byte) : summaryCount (lossReport exp q) = 0 := by
  cases exp with
  | none => rfl
  | some e => by_cases hq : q = e <;> simp [lossReport, summaryCount, hq]

/-! ### The state a tracker operation leaves (R71 to R74) -/

/-- The record a tracker operation delivers (R75). -/
def State.trackedRecord (s : State) (q : Byte) (c1 c2 : Sample) (a : Time) : SampleRecord :=
  { sequence := q
    ch1 := c1
    ch2 := c2
    arrivalTime := a
    interval := intervalSince a s.prevTs
    first := s.exp.isNone
    totalLost := add64 s.totalLost (lossCount s.exp q)
    totalValid := add64 s.totalValid 1 }

/-- What whichever tracker operation the table selects leaves. -/
def State.tracked (s : State) (q : Byte) (c1 c2 : Sample) (a : Time) : State :=
  { s with
    exp := some (inc8 q)
    totalValid := add64 s.totalValid 1
    totalLost := add64 s.totalLost (lossCount s.exp q)
    prevTs := a
    out := s.out ++ (lossReport s.exp q ++ [.sampleDecoded (s.trackedRecord q c1 c2 a)]) }

/-- The tracker sub-step of a valid frame, whichever operation it is. -/
theorem trackSample_tracked (o : FrameOperands) (a : Time) (s : State) :
    trackSample o a s = .next (s.tracked o.sequence o.ch1 o.ch2 a) := by
  rw [trackSample_eq]
  cases he : s.exp with
  | none =>
    simp [State.tracked, State.trackedRecord, State.acceptSample, State.sampleRecord, State.expectAfter, State.emit,
      lossReport, lossCount, he, add64_zero]
  | some e =>
    by_cases hq : o.sequence = e
    · simp [State.tracked, State.trackedRecord, State.acceptSample, State.sampleRecord, State.expectAfter, State.emit,
        lossReport, lossCount, he, hq, gap8_self, add64_zero]
    · simp [State.tracked, State.trackedRecord, State.acceptSample, State.sampleRecord, State.expectAfter, State.emit,
        State.countLost, lossReport, lossCount, he, hq]

/-- The tracker operation the table selects. -/
theorem exec_selectTracker_tracked (q : Byte) (c1 c2 : Sample) (a : Time) (s : State) :
    exec (selectTracker s.exp q c1 c2 a) s = .next (s.tracked q c1 c2 a) := by
  rw [← trackSample_eq_exec { sequence := q, ch1 := c1, ch2 := c2 } a s, trackSample_tracked]

/-- A tracker operation that answers is the one the table selects. -/
theorem eq_selectTracker_of_exec {i : Instr} {q : Byte} {c1 c2 : Sample} {a : Time} {s t : State}
    (hi : i = .trkFirst q c1 c2 a ∨ i = .trkSeq q c1 c2 a ∨ i = .trkGap q c1 c2 a) (h : exec i s = .next t) :
    i = selectTracker s.exp q c1 c2 a := by
  have hsel := selects_of_exec_next h
  rcases hi with rfl | rfl | rfl
  · have he : s.exp = none := by simpa [selects] using hsel
    rw [he, selectTracker_none]
  · have he : s.exp = some q := by simpa [selects] using hsel
    rw [he, selectTracker_expected]
  · cases he : s.exp with
    | none => simp [selects, he] at hsel
    | some e =>
      have hq : q ≠ e := fun hqe => by simp [selects, he, hqe] at hsel
      simp [selectTracker, hq]

/-- Each of the three tracker operations, where it answers, leaves that state. -/
theorem exec_tracker_next {i : Instr} {q : Byte} {c1 c2 : Sample} {a : Time} {s t : State}
    (hi : i = .trkFirst q c1 c2 a ∨ i = .trkSeq q c1 c2 a ∨ i = .trkGap q c1 c2 a) (h : exec i s = .next t) :
    t = s.tracked q c1 c2 a := by
  rw [eq_selectTracker_of_exec hi h, exec_selectTracker_tracked] at h
  cases h
  rfl

/-! ### TRK.GAP (R73) -/

/-- TRK.GAP's row: some other number is expected. -/
theorem selectTracker_unexpected {q e : Byte} (hq : q ≠ e) (c1 c2 : Sample) (a : Time) :
    selectTracker (some e) q c1 c2 a = .trkGap q c1 c2 a := if_neg hq

/-- Settles O26: the row, a gap that is not zero, and the state every tracker operation leaves. -/
theorem trkGapCountsAndReports : Obligations.TrkGapCountsAndReports := by
  unfold Obligations.TrkGapCountsAndReports
  intro s q e c1 c2 a he hq
  have hsel : selectTracker s.exp q c1 c2 a = .trkGap q c1 c2 a := he ▸ selectTracker_unexpected hq c1 c2 a
  refine ⟨hsel, fun h0 => hq ((gap8_eq_zero_iff q e).1 h0), ?_⟩
  rw [← hsel, exec_selectTracker_tracked]
  simp [State.tracked, State.trackedRecord, lossReport, lossCount, he, hq]

/-! ### The tracker reads and writes LossState only (R70) -/

/-- What the tracker leaves in LossState depends on LossState, the sequence and the arrival time only. -/
theorem tracked_sameLoss {s w : State} (h : sameLoss s w) (q : Byte) (c1 c2 d1 d2 : Sample) (a : Time) :
    sameLoss (s.tracked q c1 c2 a) (w.tracked q d1 d2 a) := by
  obtain ⟨he, hv, hl, -⟩ := h
  simp [sameLoss, State.tracked, he, hv, hl]

/-- A failed frame, a noise byte and an idle report do not reach LossState. -/
theorem sameLoss_of_no_frame {b : Byte} {s t : State}
    (h : exec (.chkErr b) s = .next t ∨ exec (.skip b) s = .next t ∨ exec .idle s = .next t) : sameLoss s t := by
  rcases h with h | h | h
  · obtain rfl := exec_chkErr_next h
    exact ⟨rfl, rfl, rfl, rfl⟩
  · obtain rfl := exec_skip_next h
    exact ⟨rfl, rfl, rfl, rfl⟩
  · obtain ⟨-, rfl⟩ := (whenSelected_next_iff _ _ _ _).1 h
    exact ⟨rfl, rfl, rfl, rfl⟩

/-- Settles O27: every clause is read off the state `State.tracked`. -/
theorem trackerWritesOnlyLossState : Obligations.TrackerWritesOnlyLossState := by
  unfold Obligations.TrackerWritesOnlyLossState
  refine ⟨fun i q c1 c2 d1 d2 a s t hi h => ?_, fun b s t => sameLoss_of_no_frame⟩
  have hsel := eq_selectTracker_of_exec hi h
  obtain rfl := exec_tracker_next hi h
  refine ⟨⟨rfl, rfl, rfl⟩, ⟨rfl, rfl, rfl, rfl⟩, rfl, ⟨lossReport s.exp q, s.trackedRecord q c1 c2 a, ?_, rfl, rfl, rfl,
    rfl⟩, ⟨s.tracked q d1 d2 a, exec_selectTracker_tracked q d1 d2 a s, ?_⟩,
    fun w hw => ⟨w.tracked q c1 c2 a, ?_, tracked_sameLoss hw q c1 c2 c1 c2 a⟩⟩
  · exact (List.append_assoc _ _ _).symm
  · exact tracked_sameLoss ⟨rfl, rfl, rfl, rfl⟩ q c1 c2 d1 d2 a
  · rw [hsel, ← hw.1]
    exact exec_selectTracker_tracked q c1 c2 a w

end Sys2Proof.Machine
end

section
/-! What a step reports (60_exceptions.md section 3) and what a run of steps adds up to. A step without Reset reports
one of four things, and each says what becomes of LossState and of the session; the laws of runs follow, each from a
relation that a step satisfies and that joins over runs. -/

namespace Sys2Proof.Machine

/-! ### The four reports of a step -/

/-- All a step without Reset can report, with what it does to the totals and to the session. -/
inductive StepReport (s t : State) : Prop
  /-- Nothing: SOF, SKIP, PUSH, IDLE, HOLD. -/
  | silent (out : t.out = []) (loss : sameLoss s t) (session : t.halted = s.halted)
  /-- CHK.ERR. -/
  | checksumError (out : t.out = [.checksumError]) (loss : sameLoss s t) (session : t.halted = s.halted)
  /-- CHK.OK: the record of the tracker operation, after the loss it shows. -/
  | sample (q : Byte) (r : SampleRecord) (out : t.out = lossReport s.exp q ++ [.sampleDecoded r])
      (count : r.totalValid = add64 s.totalValid 1) (valid : t.totalValid = add64 s.totalValid 1)
      (lost : t.totalLost = add64 s.totalLost (lossCount s.exp q)) (session : t.halted = s.halted)
  /-- STOP and SRCFAIL. -/
  | summary (failed : Bool) (out : t.out = [.summary s.totalValid s.totalLost failed]) (loss : sameLoss s t)
      (running : s.halted = false) (ended : t.halted = true)

/-- An operation outside the tracker, other than RESET, makes one of the four reports. -/
theorem exec_report {i : Instr} {s t : State} (hi : rowFormat i ≠ 'T') (hr : i ≠ .reset)
    (h : exec i s.clearOut = .next t) : StepReport s t := by
  have hsame : sameLoss s s.clearOut := ⟨rfl, rfl, rfl, rfl⟩
  rcases exec_next_cases h with ⟨now, -, -, -, rfl⟩ | ⟨b, -, -, -, -, rfl⟩ | ⟨b, -, -, -, -, rfl⟩ |
    ⟨b, c, l1, h1, l2, h2, -, -, -, -, -, ht⟩ | ⟨b, -, -, -, -, -, rfl⟩ | ⟨q, c1, c2, a, rfl, -⟩ |
    ⟨q, c1, c2, a, rfl, -⟩ | ⟨q, c1, c2, a, e, rfl, -⟩ | ⟨rfl, -⟩ | ⟨-, -, rfl⟩ | ⟨-, hh, rfl⟩ |
    ⟨-, hh, rfl⟩ | ⟨-, -, rfl⟩
  · exact .silent rfl hsame rfl
  · exact .silent rfl hsame rfl
  · exact .silent rfl hsame rfl
  · have htrk := exec_selectTracker_tracked c (s16 l1 h1) (s16 l2 h2) s.ts ((s.clearOut.append b).goto .awaitingStart)
    obtain rfl := Host.Outcome.next.inj (htrk.symm.trans ht)
    exact .sample c _ rfl rfl rfl rfl rfl
  · exact .checksumError rfl hsame rfl
  · exact absurd rfl hi
  · exact absurd rfl hi
  · exact absurd rfl hi
  · exact absurd rfl hr
  · exact .silent rfl hsame rfl
  · exact .summary false rfl hsame hh rfl
  · exact .summary true rfl hsame hh rfl
  · exact .silent rfl hsame rfl

/-- Only Reset selects RESET. -/
theorem eq_reset_of_decodeInput {c : Ctx} {inp : Input} (h : decodeInput c inp = .ok .reset) : inp = .reset := by
  simpa using decodeInput_cases h

/-- An input other than Reset makes one of the four reports, from any state. -/
theorem deliver_report {inp : Input} {s t : State} (hx : inp ≠ .reset) (h : deliver inp s = .next t) :
    StepReport s t := by
  obtain ⟨i, -, hi, ht⟩ := deliver_next_cases h
  refine exec_report (decodeInput_not_tracker hi) (fun hr => hx ?_) ht
  exact eq_reset_of_decodeInput (hr ▸ hi)

/-- Reset starts a session, whether or not one has begun, and reports nothing. -/
theorem deliver_reset (s : State) : deliver .reset s = .next s.clearOut.startSession := by
  rw [deliver_eq_exec (.inr rfl) (i := .reset) rfl]
  rfl

/-- The report of a sample is one of the output lists of R96, its gap not zero. -/
theorem outputsOk_lossReport_sample (exp : Option Byte) (q : Byte) (r : SampleRecord) :
    outputsOk (lossReport exp q ++ [.sampleDecoded r]) = true := by
  cases exp with
  | none => rfl
  | some e =>
    by_cases hq : q = e
    · simp [lossReport, hq, outputsOk]
    · have hne : gap8 q e ≠ 0 := fun h0 => hq ((gap8_eq_zero_iff q e).1 h0)
      simpa [lossReport, hq, outputsOk] using hne

/-- Settles O42: Reset reports nothing, any other input one of the four reports. -/
theorem outputListsOfAStep : Obligations.OutputListsOfAStep := by
  unfold Obligations.OutputListsOfAStep
  intro s t h
  change deliver (nextInput s) (consume s) = .next t at h
  by_cases hx : nextInput s = .reset
  · rw [hx, deliver_reset] at h
    cases h
    rfl
  · cases deliver_report hx h with
    | silent out => simp [out, outputsOk]
    | checksumError out => simp [out, outputsOk]
    | sample q r out => simp only [out, outputsOk_lossReport_sample]
    | summary failed out => simp [out, outputsOk]

/-! ### Runs without Reset -/

/-- What each step of a run satisfies, and what joins, holds of the run. -/
theorem runInputs_induction {P : State → State → List Output → Prop} (hnil : ∀ s, P s s [])
    (hjoin : ∀ s t u a b, P s t a → P t u b → P s u (a ++ b)) (hstep : ∀ s t, StepReport s t → P s t t.out)
    {xs : List Input} {s t : State} {outs : List Output} (hxs : ∀ x ∈ xs, x ≠ .reset)
    (h : runInputs s xs = .next (t, outs)) : P s t outs := by
  induction xs generalizing s outs with
  | nil =>
    cases h
    exact hnil _
  | cons x xs ih =>
    obtain ⟨hx, hrest⟩ := List.forall_mem_cons.1 hxs
    obtain ⟨u, outs', hd, hr, rfl⟩ := runInputs_cons_cases h
    exact hjoin s u t u.out outs' (hstep s u (deliver_report hx hd)) (ih hrest hr)

/-- The totals grow by what the outputs report, and each record carries the number of records so far. -/
def totalsFollow (s t : State) (outs : List Output) : Prop :=
  (recordsOf outs).map (fun r => r.totalValid) =
    (List.range (recordsOf outs).length).map (fun k => add64 s.totalValid (k + 1)) ∧
  t.totalValid = add64 s.totalValid (recordsOf outs).length ∧
  t.totalLost = add64 s.totalLost ((gapsOf outs).map BitVec.toNat).sum

theorem totalsFollow_nil (s : State) : totalsFollow s s [] :=
  ⟨rfl, (add64_zero _).symm, (add64_zero _).symm⟩

/-- The counts of two parts of a run add up, the second part counting on from the first. -/
theorem totalsFollow_join (s t u : State) (a b : List Output) (h : totalsFollow s t a) (h' : totalsFollow t u b) :
    totalsFollow s u (a ++ b) := by
  obtain ⟨hrec, hvalid, hlost⟩ := h
  obtain ⟨hrec', hvalid', hlost'⟩ := h'
  refine ⟨?_, ?_, ?_⟩
  · simp only [recordsOf_append, List.map_append, List.length_append, List.range_add, List.map_map, hrec, hrec', hvalid,
      add64_add64, Function.comp_def, Nat.add_assoc]
  · rw [hvalid', hvalid, add64_add64, recordsOf_append, List.length_append]
  · rw [hlost', hlost, add64_add64, gapsOf_append, List.map_append, List.sum_append]

/-- A step that reports neither a record nor a loss leaves the totals. -/
theorem totalsFollow_of_sameLoss {s t : State} {outs : List Output} (hloss : sameLoss s t)
    (hrec : recordsOf outs = []) (hgaps : gapsOf outs = []) : totalsFollow s t outs := by
  obtain ⟨-, hvalid, hlost, -⟩ := hloss
  simp [totalsFollow, hrec, hgaps, hvalid, hlost, add64_zero]

theorem totalsFollow_step (s t : State) (h : StepReport s t) : totalsFollow s t t.out := by
  cases h with
  | silent out loss => exact totalsFollow_of_sameLoss loss (by rw [out]; rfl) (by rw [out]; rfl)
  | checksumError out loss => exact totalsFollow_of_sameLoss loss (by rw [out]; rfl) (by rw [out]; rfl)
  | sample q r out count valid lost =>
    have hrec : recordsOf t.out = [r] := by rw [out, recordsOf_append, recordsOf_lossReport]; rfl
    have hgaps : gapsOf t.out = gapsOf (lossReport s.exp q) := by rw [out, gapsOf_append]; exact List.append_nil _
    refine ⟨?_, ?_, ?_⟩
    · simp [hrec, count]
    · simp [hrec, valid]
    · rw [hgaps, sum_gapsOf_lossReport, lost]
  | summary failed out loss => exact totalsFollow_of_sameLoss loss (by rw [out]; rfl) (by rw [out]; rfl)

/-- Settles O52: `totalsFollow` holds of a step and joins. -/
theorem totalsCountTheEvents : Obligations.TotalsCountTheEvents := by
  unfold Obligations.TotalsCountTheEvents
  exact fun s t xs outs => runInputs_induction totalsFollow_nil totalsFollow_join totalsFollow_step

/-- A summary is emitted at most once, exactly when the session ends; an ended session emits none. -/
def summaryFollows (s t : State) (outs : List Output) : Prop :=
  summaryCount outs ≤ 1 ∧ (s.halted = true → summaryCount outs = 0 ∧ t.halted = true) ∧
  (s.halted = false → (t.halted = true ↔ summaryCount outs = 1))

theorem summaryFollows_nil (s : State) : summaryFollows s s [] := by
  simp [summaryFollows, summaryCount]

/-- A summary in the first part leaves none for the second. -/
theorem summaryFollows_join (s t u : State) (a b : List Output) (h : summaryFollows s t a)
    (h' : summaryFollows t u b) : summaryFollows s u (a ++ b) := by
  obtain ⟨hle, hended, hrunning⟩ := h
  obtain ⟨hle', hended', hrunning'⟩ := h'
  unfold summaryFollows
  rw [summaryCount_append]
  cases ht : t.halted with
  | true =>
    obtain ⟨h0, hu⟩ := hended' ht
    rw [h0, Nat.add_zero]
    exact ⟨hle, fun hs => ⟨(hended hs).1, hu⟩, fun hs => by simpa [hu, ht] using hrunning hs⟩
  | false =>
    have h0 : summaryCount a = 0 ∧ s.halted = false := by
      cases hs : s.halted with
      | true => simpa [ht] using hended hs
      | false =>
        have h1 : summaryCount a ≠ 1 := fun h1 => by simpa [ht] using (hrunning hs).2 h1
        exact ⟨by omega, rfl⟩
    simpa [h0] using ⟨hle', hrunning' ht⟩

/-- A step that emits no summary leaves the session running or ended, as it was. -/
theorem summaryFollows_of_same_session {s t : State} {outs : List Output} (hsession : t.halted = s.halted)
    (h0 : summaryCount outs = 0) : summaryFollows s t outs := by
  simp [summaryFollows, h0, hsession]

theorem summaryFollows_step (s t : State) (h : StepReport s t) : summaryFollows s t t.out := by
  cases h with
  | silent out loss session => exact summaryFollows_of_same_session session (by rw [out]; rfl)
  | checksumError out loss session => exact summaryFollows_of_same_session session (by rw [out]; rfl)
  | sample q r out count valid lost session =>
    refine summaryFollows_of_same_session session ?_
    rw [out, summaryCount_append, summaryCount_lossReport]
    rfl
  | summary failed out loss running ended => simp [summaryFollows, out, summaryCount, running, ended]

/-- The law of summaries over any run without Reset. -/
theorem runInputs_summaryFollows {xs : List Input} {s t : State} {outs : List Output} (hxs : ∀ x ∈ xs, x ≠ .reset)
    (h : runInputs s xs = .next (t, outs)) : summaryFollows s t outs :=
  runInputs_induction summaryFollows_nil summaryFollows_join summaryFollows_step hxs h

/-- Settles O53: `summaryFollows` holds of a step and joins. -/
theorem atMostOneSummaryPerSession : Obligations.AtMostOneSummaryPerSession := by
  unfold Obligations.AtMostOneSummaryPerSession
  exact fun s t xs outs => runInputs_summaryFollows

end Sys2Proof.Machine
end

section
/-! Frames in a run (30_encoding.md section 2, 40_decoder_ops.md section 3). A marker opens a window, five bytes fill
it in silence, and the sixth decides: a valid frame leaves what the tracker leaves, an invalid one its error and
nothing of LossState. Every statement about frames, good or bad, is one of these two runs or a sequence of them. -/

namespace Sys2Proof.Machine

/-! ### The steps of a frame -/

/-- Inside a payload window, some bytes buffered, in a step that reported nothing. -/
def State.window (s : State) (now : Time) (p : List Byte) : State :=
  { s with st := .readingPayload, buf := p, ts := now, out := [] }

/-- A frame received to its end and not yet reported. -/
def State.frameEnd (s : State) (now : Time) (p : List Byte) : State :=
  { s with st := .awaitingStart, buf := p, ts := now, out := [] }

section
variable {s : State} (hst : s.started = true) (hh : s.halted = false)
include hst hh

/-- A marker opens a window. -/
theorem deliver_marker (hs : s.st = .awaitingStart) (now : Time) :
    deliver (.byte Config.marker now) s = .next (s.window now []) := by
  have hi := decodeInput_marker (c := s.ctx) hh hs now
  exact (deliver_eq_exec (.inl hst) hi).trans (whenSelected_of_selects (s := s.clearOut) _ (decodeInput_selects hi))

/-- Any other byte outside a window is skipped. -/
theorem deliver_noise (hs : s.st = .awaitingStart) {b : Byte} (hb : b ≠ Config.marker) (now : Time) :
    deliver (.byte b now) s = .next s.clearOut := by
  have hi := decodeInput_of_ne_marker (c := s.ctx) hh hs hb now
  exact (deliver_eq_exec (.inl hst) hi).trans (whenSelected_of_selects (s := s.clearOut) _ (decodeInput_selects hi))

/-- A byte inside a window with at most four buffered is stored. -/
theorem deliver_payload_byte (hs : s.st = .readingPayload) (hl : s.buf.length < 5) (b : Byte) (now : Time) :
    deliver (.byte b now) s = .next (s.clearOut.append b) := by
  have hi := decodeInput_first_five (c := s.ctx) hh hs hl b now
  exact (deliver_eq_exec (.inl hst) hi).trans (whenSelected_of_selects (s := s.clearOut) _ (decodeInput_selects hi))

/-- Bytes that do not fill a window are stored in silence. -/
theorem runInputs_window (now : Time) (bs : List (Byte × Time)) (rest : List Input) (p : List Byte)
    (hl : p.length + bs.length ≤ 5) :
    runInputs (s.window now p) (bs.map (fun x => .byte x.1 x.2) ++ rest) =
      runInputs (s.window now (p ++ bs.map Prod.fst)) rest := by
  induction bs generalizing p with
  | nil => simp
  | cons x bs ih =>
    rw [List.length_cons] at hl
    have hpush : deliver (.byte x.1 x.2) (s.window now p) = .next (s.window now (p ++ [x.1])) :=
      deliver_payload_byte (s := s.window now p) hst hh rfl (show p.length < 5 by omega) x.1 x.2
    rw [List.map_cons, List.cons_append, runInputs_cons_silent hpush rfl, ih (p ++ [x.1]) (by simp; omega)]
    simp

variable (hs : s.st = .awaitingStart) (x0 x1 x2 x3 x4 x5 : Byte) (t0 t1 t2 t3 t4 t5 t6 : Time)
include hs

/-- A marker and five bytes fill a window in silence. -/
theorem runInputs_marker_five (rest : List Input) :
    runInputs s (.byte 0xAA#8 t0 :: .byte x0 t1 :: .byte x1 t2 :: .byte x2 t3 :: .byte x3 t4 :: .byte x4 t5 :: rest) =
      runInputs (s.window t0 [x0, x1, x2, x3, x4]) rest :=
  (runInputs_cons_silent (deliver_marker hst hh hs t0) rfl _).trans
    (runInputs_window hst hh t0 [(x0, t1), (x1, t2), (x2, t3), (x3, t4), (x4, t5)] rest [] le_rfl)

/-- Seven bytes that form a valid frame: the tracker runs on its operands and the time of its marker. -/
theorem runInputs_valid_frame (hk : x5 = cksum [x0, x1, x2, x3, x4]) :
    runInputs s (List.zipWith Input.byte [0xAA#8, x0, x1, x2, x3, x4, x5] [t0, t1, t2, t3, t4, t5, t6]) =
      .next ((s.frameEnd t0 [x0, x1, x2, x3, x4, x5]).tracked x0 (s16 x1 x2) (s16 x3 x4) t0,
        lossReport s.exp x0 ++ [.sampleDecoded (s.trackedRecord x0 (s16 x1 x2) (s16 x3 x4) t0)]) := by
  have hlast := deliver_valid_sixth (s := s.window t0 [x0, x1, x2, x3, x4]) t6 hst hh rfl rfl hk
  rw [trackSample_tracked] at hlast
  refine (runInputs_marker_five hst hh hs x0 x1 x2 x3 x4 t0 t1 t2 t3 t4 t5 _).trans ?_
  exact (runInputs_cons_next hlast rfl).trans (by rw [List.append_nil]; rfl)

/-- Seven bytes that form a frame whose checksum fails: one error, LossState as it was. -/
theorem runInputs_invalid_frame (hk : x5 ≠ cksum [x0, x1, x2, x3, x4]) :
    runInputs s (List.zipWith Input.byte [0xAA#8, x0, x1, x2, x3, x4, x5] [t0, t1, t2, t3, t4, t5, t6]) =
      .next ((s.frameEnd t0 [x0, x1, x2, x3, x4, x5]).emit .checksumError, [.checksumError]) := by
  have hlast := deliver_invalid_sixth (s := s.window t0 [x0, x1, x2, x3, x4]) t6 hst hh rfl rfl hk
  exact (runInputs_marker_five hst hh hs x0 x1 x2 x3 x4 t0 t1 t2 t3 t4 t5 _).trans (runInputs_cons_next hlast rfl)

/-- The frame of a sample delivers that sample (R53). -/
theorem runInputs_frame (q : Byte) (a c : Sample) :
    runInputs s (List.zipWith Input.byte (frameBytes q a c) [t0, t1, t2, t3, t4, t5, t6]) =
      .next ((s.frameEnd t0 (frameBytes q a c).tail).tracked q a c t0,
        lossReport s.exp q ++ [.sampleDecoded (s.trackedRecord q a c t0)]) := by
  have h := runInputs_valid_frame hst hh hs q (lowByte a) (highByte a) (lowByte c) (highByte c) _
    t0 t1 t2 t3 t4 t5 t6 rfl
  rw [s16_lowByte_highByte, s16_lowByte_highByte] at h
  exact h

end

/-- Settles O47: the run of a frame, its report and its state written out. -/
theorem frameIsDeliveredUnchanged : Obligations.FrameIsDeliveredUnchanged := by
  unfold Obligations.FrameIsDeliveredUnchanged
  intro s q a c t0 t1 t2 t3 t4 t5 t6 hst hh hs
  exact ⟨_, s.trackedRecord q a c t0, lossReport s.exp q,
    runInputs_frame hst hh hs t0 t1 t2 t3 t4 t5 t6 q a c, rfl, rfl, rfl, rfl, rfl, Option.isNone_iff_eq_none, rfl, rfl,
    rfl, rfl, rfl, rfl, rfl, rfl⟩

/-! ### Exactly one outcome per marker (R68) -/

/-- What six bytes in a window opened in `s` come to: a record, or an error that leaves LossState alone. -/
def windowOutcome (s t : State) (p : List Byte) (outs : List Output) : Prop :=
  t.st = .awaitingStart ∧ t.buf = p ∧ t.ts = s.ts ∧ t.halted = false ∧
  ((validPayload p = true ∧ (recordsOf outs).length = 1 ∧ checksumErrorCount outs = 0) ∨
   (validPayload p = false ∧ outs = [.checksumError] ∧ sameLoss s t))

/-- The sixth byte decides the outcome. -/
theorem deliver_sixth_outcome {s : State} (hst : s.started = true) (hh : s.halted = false)
    (hs : s.st = .readingPayload) (hl : s.buf.length = 5) (b : Byte) (now : Time) :
    ∃ t, deliver (.byte b now) s = .next t ∧ windowOutcome s t (s.buf ++ [b]) t.out := by
  obtain ⟨c, l1, h1, l2, h2, hb⟩ := five_bytes hl
  have hvalid := validPayload_six_iff c l1 h1 l2 h2 b
  by_cases hk : b = cksum [c, l1, h1, l2, h2]
  · obtain ⟨t, ht, ⟨hst', hbuf, hhalt, -⟩, herr, hrec⟩ := trackSample_reports_one_record
      { sequence := c, ch1 := s16 l1 h1, ch2 := s16 l2 h2 } s.ts ((s.clearOut.append b).goto .awaitingStart)
    obtain ⟨⟨-, -, hts⟩, -⟩ := trackSample_frame ht
    exact ⟨t, (deliver_valid_sixth now hst hh hs hb hk).trans ht, hst', hbuf, hts, hhalt.trans hh,
      .inl ⟨by rw [hb]; exact hvalid.2 hk, hrec, herr⟩⟩
  · have hsum : b ≠ bufSum s.buf := by rwa [hb, bufSum_five]
    have hbad : validPayload (s.buf ++ [b]) = false := by
      rw [hb]
      exact Bool.eq_false_of_not_eq_true fun hv => hk (hvalid.1 hv)
    exact ⟨_, deliver_invalid_sixth now hst hh hs hl hsum, rfl, rfl, rfl, hh,
      .inr ⟨hbad, rfl, rfl, rfl, rfl, rfl⟩⟩

/-- Idle reports alone have no effect but on the outputs of the step before. -/
theorem runInputs_idles {xs : List Input} (hxs : ∀ x ∈ xs, isStream x = true) (hno : bytesOf xs = []) {s : State}
    (hst : s.started = true) : ∃ t, runInputs s xs = .next (t, []) ∧ t.clearOut = s.clearOut := by
  induction xs generalizing s with
  | nil => exact ⟨s, rfl, rfl⟩
  | cons x xs ih =>
    obtain ⟨hx, hrest⟩ := List.forall_mem_cons.1 hxs
    cases x with
    | idle =>
      obtain ⟨t, ht, hsame⟩ := ih hrest hno (s := s.clearOut) hst
      exact ⟨t, runInputs_cons_next (deliver_idle hst) ht, hsame⟩
    | byte b now => cases hno
    | reset | stop | srcFail => cases hx

/-- An outcome does not see the outputs its state holds. -/
theorem windowOutcome_of_clearOut_eq {s t u : State} {p : List Byte} {outs : List Output}
    (h : windowOutcome s t p outs) (hu : u.clearOut = t.clearOut) : windowOutcome s u p outs := by
  change windowOutcome s u.clearOut p outs
  rwa [hu]

/-- From any position in a window, as many bytes as are missing come to one outcome, idle reports or not. -/
theorem runInputs_windowOutcome {xs : List Input} (hxs : ∀ x ∈ xs, isStream x = true) {s : State}
    (hst : s.started = true) (hh : s.halted = false) (hs : s.st = .readingPayload) (hl : s.buf.length ≤ 5)
    (h6 : s.buf.length + (bytesOf xs).length = 6) :
    ∃ t outs, runInputs s xs = .next (t, outs) ∧ windowOutcome s t (s.buf ++ bytesOf xs) outs := by
  induction xs generalizing s with
  | nil =>
    simp only [bytesOf, List.length_nil] at h6
    omega
  | cons x xs ih =>
    obtain ⟨hx, hrest⟩ := List.forall_mem_cons.1 hxs
    cases x with
    | reset | stop | srcFail => cases hx
    | idle =>
      obtain ⟨t, outs, ht, hout⟩ := ih hrest (s := s.clearOut) hst hh hs hl h6
      exact ⟨t, outs, runInputs_cons_next (deliver_idle hst) ht, hout⟩
    | byte b now =>
      simp only [bytesOf, List.length_cons] at h6
      by_cases h5 : s.buf.length = 5
      · have hno : bytesOf xs = [] := List.length_eq_zero_iff.1 (by omega)
        obtain ⟨t, ht, hout⟩ := deliver_sixth_outcome hst hh hs h5 b now
        obtain ⟨u, hu, hsame⟩ := runInputs_idles hrest hno (deliver_started hst ht)
        refine ⟨u, t.out ++ [], runInputs_cons_next ht hu, ?_⟩
        rw [List.append_nil, bytesOf, hno]
        exact windowOutcome_of_clearOut_eq hout hsame
      · have hlt : s.buf.length < 5 := by omega
        obtain ⟨t, outs, ht, hout⟩ := ih hrest (s := s.clearOut.append b) hst hh hs (by simpa using hlt)
          (by simp; omega)
        refine ⟨t, outs, runInputs_cons_next (deliver_payload_byte hst hh hs hlt b now) ht, ?_⟩
        rw [bytesOf, ← List.singleton_append, ← List.append_assoc]
        exact hout

/-- Settles O46: the empty window, six bytes missing. -/
theorem exactlyOneOutcomePerMarker : Obligations.ExactlyOneOutcomePerMarker := by
  unfold Obligations.ExactlyOneOutcomePerMarker
  intro s xs hst hh hs hb hxs h6
  have hrun := runInputs_windowOutcome hxs hst hh hs (by simp [hb]) (by simp [hb, h6])
  rwa [hb] at hrun

/-! ### Damaged frames -/

/-- A run continued. -/
theorem runInputs_append {xs ys : List Input} {s t u : State} {a b : List Output}
    (h : runInputs s xs = .next (t, a)) (h' : runInputs t ys = .next (u, b)) :
    runInputs s (xs ++ ys) = .next (u, a ++ b) := by
  induction xs generalizing s a with
  | nil =>
    cases h
    exact h'
  | cons x xs ih =>
    obtain ⟨v, outs, hd, hr, rfl⟩ := runInputs_cons_cases h
    rw [List.append_assoc]
    exact runInputs_cons_next hd (ih hr)

/-- A byte moved by another that is not zero is a different byte. -/
theorem ofNat_toNat_add_ne {d : Byte} (hd : d ≠ 0) (k : Byte) : BitVec.ofNat 8 (k.toNat + d.toNat) ≠ k := by
  rw [BitVec.ofNat_add, BitVec.ofNat_toNat, BitVec.ofNat_toNat, BitVec.setWidth_eq, BitVec.setWidth_eq]
  exact fun h => hd (add_eq_left.1 h)

/-- A `.seq` directive stands for its frames, one after another. -/
theorem expandFrom_seq (now : Time) (ss : List Byte) (rest : List Directive) :
    expandFrom now (.seq ss :: rest) = expandFrom now (ss.map (fun q => .frame q 0 0) ++ rest) := by
  induction ss with
  | nil => rfl
  | cons q ss ih =>
    rw [List.map_cons, List.cons_append, expandFrom, ← ih]
    simp [expandFrom]

/-- Settles O48: a moved checksum makes an invalid frame; the frames of `.seq` by induction. -/
theorem badFrameNeverValidates : Obligations.BadFrameNeverValidates := by
  unfold Obligations.BadFrameNeverValidates
  refine ⟨fun s now q a c d hst hh hs hd => ?_, expandFrom_seq⟩
  have hk := ofNat_toNat_add_ne (bne_iff_ne.1 hd) (cksum (frameBody q a c))
  exact ⟨_, runInputs_invalid_frame hst hh hs q (lowByte a) (highByte a) (lowByte c) (highByte c) _
    now now now now now now now hk, ⟨rfl, rfl, rfl, rfl⟩, rfl⟩

/-- The number after the expected one shows one frame lost. -/
theorem gap8_inc8 (e : Byte) : gap8 (inc8 e) e = 1 := by
  rw [gap8_eq_sub, inc8_eq_add, BitVec.add_comm, BitVec.add_sub_cancel]

/-- The number after the expected one is reported as one lost. -/
theorem lossReport_inc8 (e : Byte) : lossReport (some e) (inc8 e) = [.lost 1] := by
  have hne : inc8 e ≠ e := fun h => absurd (gap8_inc8 e) (by rw [(gap8_eq_zero_iff _ _).2 h]; decide)
  simp [lossReport, hne, gap8_inc8]

/-- The number after the expected one counts as one lost. -/
theorem lossCount_inc8 (e : Byte) : lossCount (some e) (inc8 e) = 1 := by
  simp [lossCount, gap8_inc8]

/-- The frame after an invalid one meets LossState as it was before both. -/
theorem runInputs_invalid_then_frame {s : State} (hst : s.started = true) (hh : s.halted = false)
    (hs : s.st = .awaitingStart) {x0 x1 x2 x3 x4 x5 : Byte} (hk : x5 ≠ cksum [x0, x1, x2, x3, x4]) (q : Byte)
    (a c : Sample) (now now' : Time) :
    ∃ t r, runInputs s (byteInputs now [0xAA, x0, x1, x2, x3, x4, x5] ++ byteInputs now' (frameBytes q a c)) =
        .next (t, .checksumError :: (lossReport s.exp q ++ [.sampleDecoded r])) ∧
      r.sequence = q ∧ t.totalLost = add64 s.totalLost (lossCount s.exp q) ∧
      t.totalValid = add64 s.totalValid 1 ∧ t.exp = some (inc8 q) := by
  have hbad := runInputs_invalid_frame hst hh hs x0 x1 x2 x3 x4 x5 now now now now now now now hk
  have hgood := runInputs_frame (s := (s.frameEnd now [x0, x1, x2, x3, x4, x5]).emit .checksumError) hst hh rfl
    now' now' now' now' now' now' now' q a c
  exact ⟨_, _, runInputs_append hbad hgood, rfl, rfl, rfl, rfl⟩

/-- Settles O49: the valid frame after the invalid one shows the loss that the expected counter gives it. -/
theorem corruptedFrameCountsAsLostOneFrameLater : Obligations.CorruptedFrameCountsAsLostOneFrameLater := by
  unfold Obligations.CorruptedFrameCountsAsLostOneFrameLater
  intro s x0 x1 x2 x3 x4 x5 a c now now' hst hh hs hk
  have hbad := runInputs_invalid_frame hst hh hs x0 x1 x2 x3 x4 x5 now now now now now now now hk
  refine ⟨⟨_, hbad, rfl, rfl, rfl, rfl⟩, fun e he => ?_, fun q he => ?_⟩
  · obtain ⟨t, r, hrun, hq, hlost, hvalid, hexp⟩ := runInputs_invalid_then_frame hst hh hs hk (inc8 e) a c now now'
    rw [he, lossReport_inc8] at hrun
    rw [he, lossCount_inc8] at hlost
    exact ⟨t, r, hrun, hq, hlost, hvalid, hexp⟩
  · obtain ⟨t, r, hrun, hq, hlost, hvalid, hexp⟩ := runInputs_invalid_then_frame hst hh hs hk q a c now now'
    rw [he] at hrun hlost
    exact ⟨t, r, hrun, hq, hlost.trans (add64_zero _), hvalid, hexp⟩

/-- Settles O50: the false marker's window takes the true marker and four bytes of the body, fails on the fifth, and
leaves the checksum byte as noise. -/
theorem falseMarkerCostsTheFrame : Obligations.FalseMarkerCostsTheFrame := by
  unfold Obligations.FalseMarkerCostsTheFrame
  intro s q a c now now' hst hh hs hk hmark
  have hbad := runInputs_invalid_frame hst hh hs 0xAA#8 q (lowByte a) (highByte a) (lowByte c) (highByte c)
    now now' now' now' now' now' now' hk
  have hskip := runInputs_cons_next (rest := []) (deliver_noise
    (s := (s.frameEnd now [0xAA#8, q, lowByte a, highByte a, lowByte c, highByte c]).emit .checksumError)
    hst hh rfl hmark now') rfl
  exact ⟨_, runInputs_append hbad hskip, rfl, rfl, rfl, rfl, rfl, rfl⟩

/-- Seven marker values are an invalid frame. -/
theorem runInputs_seven_markers {s : State} (hst : s.started = true) (hh : s.halted = false)
    (hs : s.st = .awaitingStart) (now : Time) :
    runInputs s (byteInputs now (List.replicate 7 0xAA#8)) =
      .next ((s.frameEnd now (List.replicate 6 0xAA#8)).emit .checksumError, [.checksumError]) :=
  runInputs_invalid_frame hst hh hs 0xAA#8 0xAA#8 0xAA#8 0xAA#8 0xAA#8 0xAA#8 now now now now now now now (by decide)

/-- Settles O51: by induction on the number of frames; each leaves the decoder in AwaitingStart, LossState as it was. -/
theorem allMarkerStreamFailsEverySeventhByte : Obligations.AllMarkerStreamFailsEverySeventhByte := by
  unfold Obligations.AllMarkerStreamFailsEverySeventhByte
  intro s n now hst hh hs
  induction n generalizing s with
  | zero => exact ⟨s, rfl, hs, rfl, rfl, rfl, rfl⟩
  | succ n ih =>
    obtain ⟨t, ht, hst', hloss⟩ := ih ((s.frameEnd now (List.replicate 6 0xAA#8)).emit .checksumError) hst hh rfl
    refine ⟨t, ?_, hst', hloss⟩
    have hsplit : List.replicate (7 * (n + 1)) 0xAA#8 = List.replicate 7 0xAA#8 ++ List.replicate (7 * n) 0xAA#8 := by
      rw [List.replicate_append_replicate]
      congr 1
      omega
    rw [hsplit, byteInputs, List.map_append]
    exact runInputs_append (runInputs_seven_markers hst hh hs now) ht

end Sys2Proof.Machine
end

section
/-! The frame of every operation (10_state.md sections 2, 3, 4 and 6; 60_exceptions.md): what it leaves unchanged, how
it moves the position, what it writes of LossState and of the session flags, and what it reports. Each is read off the one
state the operation can leave. -/

namespace Sys2Proof.Machine

/-! ### CHK.ERR (R66) -/

/-- CHK.ERR's row: a running session, five bytes of a payload buffered, any byte but their sum. -/
theorem decodeInput_eq_chkErr_iff_row (c : Ctx) (b : Byte) (now : Time) :
    decodeInput c (.byte b now) = .ok (.chkErr b) ↔
      c.halted = false ∧ c.st = .readingPayload ∧ c.buf.length = 5 ∧ b ≠ bufSum c.buf := by
  refine ⟨fun h => ?_, fun ⟨hh, hs, hl, hk⟩ => (decodeInput_eq_chkErr_iff hh hs hl b now).2 hk⟩
  simpa using decodeInput_byte_cases h

/-- Settles O21: the row, and a guarded operation on the state it names. -/
theorem chkErrDiscardsTheFrame : Obligations.ChkErrDiscardsTheFrame := by
  unfold Obligations.ChkErrDiscardsTheFrame
  intro s b now
  have hrow := decodeInput_eq_chkErr_iff_row s.ctx b now
  exact ⟨hrow, fun hh hs hl hk => whenSelected_of_selects _ (decodeInput_selects (hrow.2 ⟨hh, hs, hl, hk⟩))⟩

/-! ### The state an operation leaves, by the operation -/

theorem exec_idle_next {s t : State} (h : exec .idle s = .next t) : t = s :=
  ((whenSelected_next_iff _ _ _ _).1 h).2

theorem exec_hold_next {s t : State} (h : exec .hold s = .next t) : t = s :=
  ((whenSelected_next_iff _ _ _ _).1 h).2

/-- TRK.FIRST runs while nothing is expected, so no loss is counted. -/
theorem exec_trkFirst_next {q : Byte} {c1 c2 : Sample} {a : Time} {s t : State}
    (h : exec (.trkFirst q c1 c2 a) s = .next t) : s.exp = none ∧ t = s.tracked q c1 c2 a :=
  ⟨by simpa [selects] using selects_of_exec_next h, exec_tracker_next (.inl rfl) h⟩

/-- TRK.SEQ runs on the expected number. -/
theorem exec_trkSeq_next {q : Byte} {c1 c2 : Sample} {a : Time} {s t : State}
    (h : exec (.trkSeq q c1 c2 a) s = .next t) : s.exp = some q ∧ t = s.tracked q c1 c2 a :=
  ⟨by simpa [selects] using selects_of_exec_next h, exec_tracker_next (.inr (.inl rfl)) h⟩

/-- TRK.GAP runs on another number than the expected one. -/
theorem exec_trkGap_next {q : Byte} {c1 c2 : Sample} {a : Time} {s t : State}
    (h : exec (.trkGap q c1 c2 a) s = .next t) :
    ∃ e, s.exp = some e ∧ q ≠ e ∧ t = s.tracked q c1 c2 a := by
  have ht := exec_tracker_next (.inr (.inr rfl)) h
  obtain ⟨e, he, hq, -⟩ : ∃ e, s.exp = some e ∧ q ≠ e ∧ t = _ := by simpa using exec_next_cases h
  exact ⟨e, he, hq, ht⟩

/-- CHK.OK leaves what the tracker leaves on the appended buffer. -/
theorem exec_chkOk_tracked {b c l1 h1 l2 h2 : Byte} {s t : State} (hb : s.buf = [c, l1, h1, l2, h2])
    (h : exec (.chkOk b) s = .next t) :
    t = ((s.append b).goto .awaitingStart).tracked c (s16 l1 h1) (s16 l2 h2) s.ts := by
  obtain ⟨c', l1', h1', l2', h2', -, -, hb', -, ht⟩ := execChkOk_next_cases h
  rw [hb] at hb'
  cases hb'
  rw [trackSample_tracked] at ht
  exact (Host.Outcome.next.inj ht).symm

/-! ### The elements an operation does not write (10_state.md section 6) -/

/-- A frame that shows no loss leaves `total_lost`. -/
theorem tracked_totalLost {s : State} {q : Byte} (h : lossCount s.exp q = 0) (c1 c2 : Sample) (a : Time) :
    (s.tracked q c1 c2 a).totalLost = s.totalLost := by
  rw [State.tracked, h, add64_zero]

/-- The expected number shows no loss. -/
theorem lossCount_self (q : Byte) : lossCount (some q) q = 0 := by
  rw [lossCount, gap8_self]
  rfl

/-- Settles O36: the state each operation leaves, element by element. -/
theorem unwrittenElementsAreUnchanged : Obligations.UnwrittenElementsAreUnchanged := by
  unfold Obligations.UnwrittenElementsAreUnchanged
  intro i s t h
  cases i with
  | sof now =>
    obtain rfl := exec_sof_next h
    exact ⟨⟨rfl, rfl, rfl, rfl⟩, ⟨rfl, rfl, rfl, rfl⟩, rfl⟩
  | skip b => exact exec_skip_next h
  | push b =>
    obtain rfl := exec_push_next h
    exact ⟨rfl, rfl, ⟨rfl, rfl, rfl, rfl⟩, ⟨rfl, rfl, rfl, rfl⟩, rfl⟩
  | chkOk b =>
    obtain ⟨o, ht⟩ := exec_chkOk_next h
    obtain ⟨⟨-, -, hts⟩, hsession⟩ := trackSample_frame ht
    exact ⟨hts, hsession⟩
  | chkErr b =>
    obtain rfl := exec_chkErr_next h
    exact ⟨rfl, ⟨rfl, rfl, rfl, rfl⟩, ⟨rfl, rfl, rfl, rfl⟩⟩
  | trkFirst q c1 c2 a =>
    obtain ⟨he, rfl⟩ := exec_trkFirst_next h
    exact ⟨⟨rfl, rfl, rfl⟩, tracked_totalLost (by rw [he]; rfl) c1 c2 a, ⟨rfl, rfl, rfl, rfl⟩⟩
  | trkSeq q c1 c2 a =>
    obtain ⟨he, rfl⟩ := exec_trkSeq_next h
    exact ⟨⟨rfl, rfl, rfl⟩, tracked_totalLost (by rw [he, lossCount_self]) c1 c2 a, ⟨rfl, rfl, rfl, rfl⟩⟩
  | trkGap q c1 c2 a =>
    obtain ⟨e, -, -, rfl⟩ := exec_trkGap_next h
    exact ⟨⟨rfl, rfl, rfl⟩, ⟨rfl, rfl, rfl, rfl⟩⟩
  | reset =>
    obtain rfl := exec_reset_next h
    exact ⟨rfl, rfl⟩
  | idle => exact exec_idle_next h
  | stop =>
    obtain rfl := exec_stop_next h
    exact ⟨rfl, rfl, ⟨rfl, rfl, rfl, rfl⟩, Bool.or_false _, rfl, rfl⟩
  | srcFail =>
    obtain rfl := exec_srcFail_next h
    exact ⟨rfl, rfl, ⟨rfl, rfl, rfl, rfl⟩, rfl, rfl⟩
  | hold => exact exec_hold_next h

/-! ### The position (10_state.md section 2) -/

/-- Settles O37: the row gives the position before, the state left the position after. -/
theorem positionMovesByTheTable : Obligations.PositionMovesByTheTable := by
  unfold Obligations.PositionMovesByTheTable
  intro i s t h
  cases i with
  | sof now =>
    obtain ⟨-, hs, rfl⟩ : s.halted = false ∧ s.st = .awaitingStart ∧ t = _ := by simpa using exec_next_cases h
    exact ⟨hs, rfl⟩
  | push b =>
    obtain ⟨-, hs, hl, rfl⟩ : s.halted = false ∧ s.st = .readingPayload ∧ s.buf.length ≤ 4 ∧ t = _ := by
      simpa using exec_next_cases h
    exact ⟨hl, by simp [State.position, hs]⟩
  | chkOk b =>
    obtain ⟨c, l1, h1, l2, h2, -, hs, hb, -⟩ := execChkOk_next_cases h
    obtain ⟨hst, hbuf, -⟩ := exec_chkOk_sameDecoder h
    exact ⟨by simp [State.position, hs, hb], by simp [State.position, hst, hbuf, hb]⟩
  | chkErr b =>
    obtain ⟨-, hs, hl, -, rfl⟩ : s.halted = false ∧ s.st = .readingPayload ∧ s.buf.length = 5 ∧ b ≠ bufSum s.buf ∧
        t = _ := by
      simpa using exec_next_cases h
    exact ⟨by simp [State.position, hs, hl], by simp [State.position, hl]⟩
  | trkFirst q c1 c2 a =>
    obtain ⟨-, rfl⟩ := exec_trkFirst_next h
    rfl
  | trkSeq q c1 c2 a =>
    obtain ⟨-, rfl⟩ := exec_trkSeq_next h
    rfl
  | trkGap q c1 c2 a =>
    obtain ⟨e, -, -, rfl⟩ := exec_trkGap_next h
    rfl
  | reset =>
    obtain rfl := exec_reset_next h
    rfl
  | stop =>
    obtain rfl := exec_stop_next h
    rfl
  | srcFail =>
    obtain rfl := exec_srcFail_next h
    rfl
  | skip b => rw [exec_skip_next h]
  | idle => rw [exec_idle_next h]
  | hold => rw [exec_hold_next h]

/-! ### LossState and the session flags -/

/-- What the table selects for a frame has a row of format T. -/
theorem rowFormat_selectTracker (e : Option Byte) (q : Byte) (c1 c2 : Sample) (a : Time) :
    rowFormat (selectTracker e q c1 c2 a) = 'T' := by
  unfold selectTracker
  split
  · rfl
  · split <;> rfl

/-- Settles O43: each operation by the state it leaves; CHK.OK by the tracker operation inside it. -/
theorem lossStateHasOneWriter : Obligations.LossStateHasOneWriter := by
  unfold Obligations.LossStateHasOneWriter
  intro i s t h
  cases i with
  | sof now =>
    obtain rfl := exec_sof_next h
    exact ⟨rfl, rfl, rfl, rfl⟩
  | skip b =>
    obtain rfl := exec_skip_next h
    exact ⟨rfl, rfl, rfl, rfl⟩
  | push b =>
    obtain rfl := exec_push_next h
    exact ⟨rfl, rfl, rfl, rfl⟩
  | chkOk b =>
    obtain ⟨c, l1, h1, l2, h2, -, -, hb, -, ht⟩ := execChkOk_next_cases h
    rw [trackSample_eq_exec] at ht
    exact ⟨c, l1, h1, l2, h2, _, hb, rfl, rowFormat_selectTracker _ _ _ _ _, ht, by rw [exec_chkOk_tracked hb h]; rfl⟩
  | chkErr b =>
    obtain rfl := exec_chkErr_next h
    exact ⟨rfl, rfl, rfl, rfl⟩
  | trkFirst q c1 c2 a =>
    obtain ⟨-, rfl⟩ := exec_trkFirst_next h
    rfl
  | trkSeq q c1 c2 a =>
    obtain ⟨-, rfl⟩ := exec_trkSeq_next h
    rfl
  | trkGap q c1 c2 a =>
    obtain ⟨e, -, -, rfl⟩ := exec_trkGap_next h
    rfl
  | reset =>
    obtain rfl := exec_reset_next h
    exact ⟨rfl, rfl, rfl, rfl⟩
  | idle =>
    obtain rfl := exec_idle_next h
    exact ⟨rfl, rfl, rfl, rfl⟩
  | stop =>
    obtain rfl := exec_stop_next h
    exact ⟨⟨rfl, rfl, rfl, rfl⟩, rfl⟩
  | srcFail =>
    obtain rfl := exec_srcFail_next h
    exact ⟨⟨rfl, rfl, rfl, rfl⟩, rfl⟩
  | hold =>
    obtain rfl := exec_hold_next h
    exact ⟨rfl, rfl, rfl, rfl⟩

/-- An operation other than RESET, STOP and SRCFAIL leaves the session as it is. -/
theorem exec_sameSession {i : Instr} {s t : State} (hreset : i ≠ .reset) (hstop : i ≠ .stop)
    (hsrcFail : i ≠ .srcFail) (h : exec i s = .next t) : sameSession s t := by
  have hframe := unwrittenElementsAreUnchanged i s t h
  cases i with
  | sof now =>
    obtain ⟨-, hsession, -⟩ := hframe
    exact hsession
  | push b =>
    obtain ⟨-, -, -, hsession, -⟩ := hframe
    exact hsession
  | chkOk b | trkGap =>
    obtain ⟨-, hsession⟩ := hframe
    exact hsession
  | chkErr b | trkFirst | trkSeq =>
    obtain ⟨-, -, hsession⟩ := hframe
    exact hsession
  | skip | idle | hold =>
    obtain rfl : t = s := hframe
    exact ⟨rfl, rfl, rfl, rfl⟩
  | reset => exact absurd rfl hreset
  | stop => exact absurd rfl hstop
  | srcFail => exact absurd rfl hsrcFail

/-- Settles O34: the three operations that write a flag, one by one; every other leaves both. -/
theorem onlyNamedOperationsChangeTheSessionFlags : Obligations.OnlyNamedOperationsChangeTheSessionFlags := by
  unfold Obligations.OnlyNamedOperationsChangeTheSessionFlags
  intro i s t h
  by_cases hreset : i = .reset
  · obtain rfl := hreset
    obtain rfl := exec_reset_next h
    simp
  by_cases hstop : i = .stop
  · obtain rfl := hstop
    obtain rfl := exec_stop_next h
    simp
  by_cases hsrcFail : i = .srcFail
  · obtain rfl := hsrcFail
    obtain rfl := exec_srcFail_next h
    simp
  obtain ⟨hhalted, hfatal, -⟩ := exec_sameSession hreset hstop hsrcFail h
  rw [hhalted, hfatal]
  cases s.halted <;> cases s.fatal <;> simp

/-! ### The conditions (60_exceptions.md) -/

/-- A loss is reported exactly where the table selects the operation that raises the gap. -/
theorem gapsOf_lossReport_ne_nil_iff (e : Option Byte) (q : Byte) (c1 c2 : Sample) (a : Time) :
    gapsOf (lossReport e q) ≠ [] ↔ conditionOf (selectTracker e q c1 c2 a) = some .sequenceGap := by
  cases e with
  | none => simp [lossReport, gapsOf, selectTracker, conditionOf]
  | some e => by_cases hq : q = e <;> simp [lossReport, gapsOf, selectTracker, conditionOf, hq]

/-- The gaps a tracker operation adds to those reported. -/
theorem gapsOf_tracked (s : State) (q : Byte) (c1 c2 : Sample) (a : Time) :
    gapsOf (s.tracked q c1 c2 a).out = gapsOf s.out ++ gapsOf (lossReport s.exp q) := by
  simp [State.tracked, gapsOf_append, gapsOf]

/-- A tracker operation reports no checksum error. -/
theorem checksumErrorCount_tracked (s : State) (q : Byte) (c1 c2 : Sample) (a : Time) :
    checksumErrorCount (s.tracked q c1 c2 a).out = checksumErrorCount s.out :=
  trackSample_checksumErrorCount (trackSample_tracked { sequence := q, ch1 := c1, ch2 := c2 } a s)

/-- The gap of TRK.GAP: the state written out. -/
theorem exec_trkGap_next_written_out {q : Byte} {c1 c2 : Sample} {a : Time} {s t : State}
    (h : exec (.trkGap q c1 c2 a) s = .next t) :
    ∃ e r, s.exp = some e ∧ gap8 q e ≠ 0 ∧ t = { s with
      totalLost := add64 s.totalLost (gap8 q e).toNat
      exp := some (inc8 q)
      totalValid := add64 s.totalValid 1
      prevTs := a
      out := s.out ++ [.lost (gap8 q e), .sampleDecoded r] } := by
  obtain ⟨e, he, hq, rfl⟩ := exec_trkGap_next h
  refine ⟨e, s.trackedRecord q c1 c2 a, he, fun h0 => hq ((gap8_eq_zero_iff q e).1 h0), ?_⟩
  simp [State.tracked, lossReport, lossCount, he, hq]

/-- A failed source: the state written out. -/
theorem exec_srcFail_next_written_out {s t : State} (h : exec .srcFail s = .next t) :
    t = { s with
      st := .awaitingStart
      halted := true
      fatal := true
      out := s.out ++ [.summary s.totalValid s.totalLost true] } := by
  rw [exec_srcFail_next h, State.endSession, Bool.or_true]
  rfl

/-- An operation that raises no condition reports no error, and none but CHK.OK a loss. -/
theorem exec_without_condition {i : Instr} {s t : State} (hi : conditionOf i = none) (h : exec i s = .next t) :
    checksumErrorCount t.out = checksumErrorCount s.out ∧
      ((∀ b, i ≠ .chkOk b) → gapsOf t.out = gapsOf s.out) := by
  cases i with
  | sof now =>
    obtain rfl := exec_sof_next h
    exact ⟨rfl, fun _ => rfl⟩
  | push b =>
    obtain rfl := exec_push_next h
    exact ⟨rfl, fun _ => rfl⟩
  | chkOk b =>
    obtain ⟨o, ht⟩ := exec_chkOk_next h
    have herr := trackSample_checksumErrorCount ht
    exact ⟨herr, fun hb => absurd rfl (hb b)⟩
  | trkFirst q c1 c2 a =>
    obtain ⟨he, rfl⟩ := exec_trkFirst_next h
    exact ⟨checksumErrorCount_tracked s q c1 c2 a, fun _ => by simp [gapsOf_tracked, he, lossReport, gapsOf]⟩
  | trkSeq q c1 c2 a =>
    obtain ⟨he, rfl⟩ := exec_trkSeq_next h
    exact ⟨checksumErrorCount_tracked s q c1 c2 a, fun _ => by simp [gapsOf_tracked, he, lossReport, gapsOf]⟩
  | reset =>
    obtain rfl := exec_reset_next h
    exact ⟨rfl, fun _ => rfl⟩
  | stop =>
    obtain rfl := exec_stop_next h
    simp [checksumErrorCount_append, checksumErrorCount, gapsOf_append, gapsOf]
  | idle =>
    obtain rfl := exec_idle_next h
    exact ⟨rfl, fun _ => rfl⟩
  | hold =>
    obtain rfl := exec_hold_next h
    exact ⟨rfl, fun _ => rfl⟩
  | skip | chkErr | trkGap | srcFail => cases hi

/-- Settles O45: the codes, the operations that raise a condition with the state each leaves, and those that do not. -/
theorem conditionsAndTheirEvents : Obligations.ConditionsAndTheirEvents := by
  unfold Obligations.ConditionsAndTheirEvents
  refine ⟨⟨rfl, rfl, rfl, rfl⟩, fun i => ?_, fun b s t => exec_skip_next, fun b s t => exec_chkErr_next,
    fun q c1 c2 a s t => exec_trkGap_next_written_out, fun s t => exec_srcFail_next_written_out,
    fun i s t => exec_without_condition, fun b c l1 h1 l2 h2 s t hb h => ?_⟩
  · cases i <;> rfl
  · rw [exec_chkOk_tracked hb h, gapsOf_tracked]
    simpa using gapsOf_lossReport_ne_nil_iff s.exp c (s16 l1 h1) (s16 l2 h2) s.ts

end Sys2Proof.Machine
end

section
/-! The system operations (42_system_ops.md) and the step itself (00_scope.md section 7): a session starts at RESET and
at nothing else, ends at STOP or SRCFAIL, and holds until the next RESET; a step takes one input of the host's queue. -/

namespace Sys2Proof.Machine

/-! ### RESET (R79) -/

/-- Settles O29: each element is the record's own field. -/
theorem resetStateValues : Obligations.ResetStateValues := by
  unfold Obligations.ResetStateValues
  exact ⟨rfl, rfl, rfl, rfl, rfl, rfl, rfl, rfl, rfl⟩

/-- Settles O28: `deliver_reset` names the state, which holds none of the nine elements there were. -/
theorem resetStartsASession : Obligations.ResetStartsASession := by
  unfold Obligations.ResetStartsASession
  refine ⟨fun s => rfl, deliver_reset, fun s t u ht hu => ?_⟩
  rw [deliver_reset] at ht hu
  cases ht
  cases hu
  rfl

/-- Before the first RESET any other input is refused. -/
theorem deliver_before_reset {s : State} {inp : Input} (hst : s.started = false) (hx : inp ≠ .reset) :
    deliver inp s = .refused .beforeFirstReset := by
  simp [deliver, perform, hst, hx]

/-- Settles O35: Reset is performed, any other input refused, whether the state holds a session or not. -/
theorem nothingRunsBeforeTheFirstReset : Obligations.NothingRunsBeforeTheFirstReset := by
  unfold Obligations.NothingRunsBeforeTheFirstReset
  exact fun s inp hst => ⟨deliver_before_reset hst, fun hx => hx ▸ deliver_reset s⟩

/-! ### STOP and SRCFAIL (R81, R82) -/

theorem exec_stop_eq {s : State} (hh : s.halted = false) : exec .stop s = .next (s.endSession false) :=
  whenSelected_of_selects _ (by simp [selects, hh])

theorem exec_srcFail_eq {s : State} (hh : s.halted = false) : exec .srcFail s = .next (s.endSession true) :=
  whenSelected_of_selects _ (by simp [selects, hh])

/-- Settles O31: the end of a session by the host leaves `fatal` as it was. -/
theorem stopEndsTheSession : Obligations.StopEndsTheSession := by
  unfold Obligations.StopEndsTheSession
  intro s hh
  rw [exec_stop_eq hh, State.endSession, Bool.or_false]
  rfl

/-- Settles O32: the end of a session by a failed source sets `fatal`. -/
theorem sourceFailureEndsTheSession : Obligations.SourceFailureEndsTheSession := by
  unfold Obligations.SourceFailureEndsTheSession
  intro s hh
  rw [exec_srcFail_eq hh, State.endSession, Bool.or_true]
  rfl

/-! ### HOLD (R83) -/

/-- An ended session holds at every input but Reset. -/
theorem decodeInput_ended {c : Ctx} {inp : Input} (hh : c.halted = true) (hx : inp ≠ .reset) :
    decodeInput c inp = .ok .hold := by
  cases inp with
  | reset => exact absurd rfl hx
  | byte | idle | stop | srcFail => exact if_pos hh

theorem deliver_ended {s : State} {inp : Input} (hst : s.started = true) (hh : s.halted = true) (hx : inp ≠ .reset) :
    deliver inp s = .next s.clearOut :=
  (deliver_eq_exec (.inl hst) (decodeInput_ended (c := s.ctx) hh hx)).trans (exec_hold_eq (s := s.clearOut) hh)

/-- However many inputs an ended session is given, Reset not among them, it reports nothing. -/
theorem runInputs_ended {xs : List Input} (hxs : ∀ x ∈ xs, x ≠ .reset) {s : State} (hst : s.started = true)
    (hh : s.halted = true) : runInputs s.clearOut xs = .next (s.clearOut, []) := by
  induction xs with
  | nil => rfl
  | cons x xs ih =>
    obtain ⟨hx, hrest⟩ := List.forall_mem_cons.1 hxs
    rw [runInputs_cons_silent (deliver_ended (s := s.clearOut) hst hh hx) rfl]
    exact ih hrest

/-- Settles O33: one input by `exec_hold_eq`, a run by induction; its first step drops the outputs there were. -/
theorem holdIsInertUntilReset : Obligations.HoldIsInertUntilReset := by
  unfold Obligations.HoldIsInertUntilReset
  refine ⟨fun s hh => exec_hold_eq hh, fun s xs hh hst hxs hne => ?_⟩
  rw [← runInputs_clearOut hne]
  exact runInputs_ended hxs hst hh

/-! ### The step (R15) -/

/-- A step delivers the first input of the queue to the state without it. -/
theorem step_of_inputs_cons {s : State} {inp : Input} {rest : List Input} (h : s.inputs = inp :: rest) :
    step s = deliver inp { s with inputs := rest } := by
  simp only [step, nextInput, consume, h, List.tail_cons]

/-- With an empty queue a step delivers an idle report. -/
theorem step_of_inputs_nil {s : State} (h : s.inputs = []) : step s = deliver .idle s := by
  have hs : consume s = s := by rw [consume, h, List.tail_nil, ← h]
  rw [step, hs, nextInput, h]

/-- Settles O16: a step is a delivery, and a delivery performs the operation its input selects. -/
theorem stepRunsTheDecodedOperation : Obligations.StepRunsTheDecodedOperation := by
  unfold Obligations.StepRunsTheDecodedOperation
  refine ⟨fun s inp rest i hin hst hi => ?_, fun s hin hst => ?_⟩
  · rw [step_of_inputs_cons hin]
    exact deliver_eq_exec (s := { s with inputs := rest }) hst hi
  · rw [step_of_inputs_nil hin]
    refine deliver_eq_exec (.inl hst) ?_
    cases hh : s.halted with
    | false => exact decodeInput_idle_running hh
    | true => exact decodeInput_idle_ended hh

end Sys2Proof.Machine
end

section
/-! The host's queue (00_scope.md section 7) and the pins (10_state.md section 8). No operation reads the queue, so
stepping through it is the fold over its inputs; a clock cycle is the run of the inputs its control word stands for. -/

namespace Sys2Proof.Machine

/-! ### The queue -/

/-- A tracker operation neither reads nor writes the queue. -/
theorem exec_tracker_with_inputs {i : Instr} {q : Byte} {c1 c2 : Sample} {a : Time} {s t : State}
    (hi : i = .trkFirst q c1 c2 a ∨ i = .trkSeq q c1 c2 a ∨ i = .trkGap q c1 c2 a) (h : exec i s = .next t)
    (ys : List Input) : exec i { s with inputs := ys } = .next { t with inputs := ys } := by
  rw [exec_tracker_next hi h, eq_selectTracker_of_exec hi h]
  exact exec_selectTracker_tracked q c1 c2 a { s with inputs := ys }

/-- No operation reads or writes the queue. -/
theorem exec_with_inputs {i : Instr} {s t : State} (h : exec i s = .next t) (ys : List Input) :
    exec i { s with inputs := ys } = .next { t with inputs := ys } := by
  cases i with
  | sof | skip | push | chkErr | idle | stop | srcFail | hold =>
    obtain ⟨hsel, ht⟩ := (whenSelected_next_iff _ _ _ _).1 h
    rw [ht]
    exact whenSelected_of_selects (s := { s with inputs := ys }) _ hsel
  | chkOk b =>
    obtain ⟨c, l1, h1, l2, h2, hh, hs, hb, hk, -⟩ := execChkOk_next_cases h
    rw [exec_chkOk_tracked hb h]
    exact (execChkOk_eq (s := { s with inputs := ys }) hh hs hb hk).trans (trackSample_tracked _ _ _)
  | trkFirst => exact exec_tracker_with_inputs (.inl rfl) h ys
  | trkSeq => exact exec_tracker_with_inputs (.inr (.inl rfl)) h ys
  | trkGap => exact exec_tracker_with_inputs (.inr (.inr rfl)) h ys
  | reset =>
    rw [exec_reset_next h]
    rfl

/-- A delivered input is answered alike whatever the host has yet to deliver. -/
theorem deliver_with_inputs {inp : Input} {s t : State} (h : deliver inp s = .next t) (ys : List Input) :
    deliver inp { s with inputs := ys } = .next { t with inputs := ys } := by
  obtain ⟨i, hst, hi, ht⟩ := deliver_next_cases h
  exact (deliver_eq_exec (s := { s with inputs := ys }) hst hi).trans (exec_with_inputs ht ys)

/-- A delivered input leaves the queue. -/
theorem deliver_inputs {inp : Input} {s t : State} (h : deliver inp s = .next t) : t.inputs = s.inputs := by
  have ht : t = { t with inputs := s.inputs } := Host.Outcome.next.inj (h.symm.trans (deliver_with_inputs h s.inputs))
  rw [ht]

/-- A run over inputs delivered from outside leaves the queue. -/
theorem runInputs_inputs {xs : List Input} {s t : State} {outs : List Output}
    (h : runInputs s xs = .next (t, outs)) : t.inputs = s.inputs := by
  induction xs generalizing s outs with
  | nil =>
    cases h
    rfl
  | cons x xs ih =>
    obtain ⟨u, outs', hd, hr, -⟩ := runInputs_cons_cases h
    exact (ih hr).trans (deliver_inputs hd)

/-- The host's machine goes on from the state a step answers. -/
theorem core_run_succ {s t : State} (k : Nat) (h : step s = .next t) :
    Host.Core.run core (k + 1) s = Host.Core.run core k t := by
  have hcore : Host.Core.step core s = .next t := h
  simp only [Host.Core.run, hcore]

/-- Stepping through a queue ends where the fold over it ends, the queue empty. -/
theorem core_run_queue {xs : List Input} {s t : State} {outs : List Output}
    (h : runInputs s xs = .next (t, outs)) :
    Host.Core.run core xs.length { s with inputs := xs } = .next { t with inputs := [] } := by
  induction xs generalizing s outs with
  | nil =>
    cases h
    rfl
  | cons x xs ih =>
    obtain ⟨u, outs', hd, hr, -⟩ := runInputs_cons_cases h
    have hstep : step { s with inputs := x :: xs } = .next { u with inputs := xs } :=
      (step_of_inputs_cons rfl).trans (deliver_with_inputs hd xs)
    exact (core_run_succ xs.length hstep).trans (ih hr)

/-- Settles O54: `core_run_queue`; the fold begins and so ends with an empty queue. -/
theorem stepsConsumeTheQueueAsTheFold : Obligations.StepsConsumeTheQueueAsTheFold := by
  unfold Obligations.StepsConsumeTheQueueAsTheFold
  intro s t xs outs h
  have hin : t.inputs = [] := runInputs_inputs h
  have hempty : { t with inputs := [] } = t := by rw [← hin]
  exact (core_run_queue h).trans (congrArg Host.Outcome.next hempty)

/-! ### The control word (R36) -/

/-- The four bits of the control word are the four pins. -/
theorem getLsbD_controlWord (p : Pins) :
    (controlWord p).getLsbD 3 = p.rst ∧ (controlWord p).getLsbD 2 = p.srcErr ∧
    (controlWord p).getLsbD 1 = p.stop ∧ (controlWord p).getLsbD 0 = p.rxValid := by
  unfold controlWord
  cases p.rst <;> cases p.srcErr <;> cases p.stop <;> cases p.rxValid <;> decide

/-- The inputs of a cycle, by its pins. -/
theorem pinInputs_controlWord (p : Pins) :
    pinInputs (controlWord p) p.rxData p.now =
      if p.rst then [.reset]
      else if p.srcErr then [.srcFail]
      else if p.stop then (if p.rxValid then [.byte p.rxData p.now, .stop] else [.stop])
      else if p.rxValid then [.byte p.rxData p.now] else [.idle] := by
  obtain ⟨hrst, hsrcErr, hstop, hrxValid⟩ := getLsbD_controlWord p
  simp only [pinInputs, hrst, hsrcErr, hstop, hrxValid]

/-- A cycle of one input is one step. -/
theorem cycle_of_single {p : Pins} {x : Input} (h : pinInputs (controlWord p) p.rxData p.now = [x]) (s : State) :
    cycle p s = deliver x s := by
  rw [cycle, h]
  simp only [runInputs]
  cases deliver x s with
  | next t => simp only [List.append_nil]
  | fault r => rfl
  | refused r => rfl

/-- A cycle of two inputs is two steps, the outputs of both in order. -/
theorem cycle_of_pair {p : Pins} {x y : Input} {s t u : State}
    (h : pinInputs (controlWord p) p.rxData p.now = [x, y]) (hx : deliver x s = .next t)
    (hy : deliver y t = .next u) : cycle p s = .next { u with out := t.out ++ u.out } := by
  have hrun : runInputs s [x, y] = .next (u, t.out ++ (u.out ++ [])) :=
    runInputs_cons_next hx (runInputs_cons_next hy rfl)
  simp only [cycle, h, hrun, List.append_nil]

/-- Settles O55: the four pins one after another, and a cycle of one input. -/
theorem cycleBindsPinsToInputs : Obligations.CycleBindsPinsToInputs := by
  unfold Obligations.CycleBindsPinsToInputs
  refine ⟨fun p => ?_, fun x s => cycle_of_single ?_ s⟩
  · rw [pinInputs_controlWord]
    cases p.rst <;> cases p.srcErr <;> cases p.stop <;> cases p.rxValid <;> rfl
  · rw [pinInputs_controlWord]
    cases x <;> rfl

/-! ### A byte beside another input (D21) -/

/-- A byte does not end a session. -/
theorem deliver_byte_running {s t : State} {b : Byte} {now : Time} (hh : s.halted = false)
    (h : deliver (.byte b now) s = .next t) : t.halted = false := by
  obtain ⟨i, -, hi, ht⟩ := deliver_next_cases h
  have hends := (onlyNamedOperationsChangeTheSessionFlags i s.clearOut t ht).1 hh
  have hstop : i ≠ .stop := fun hs => by simpa [hs] using decodeInput_byte_cases hi
  have hsrcFail : i ≠ .srcFail := fun hs => by simpa [hs] using decodeInput_byte_cases hi
  exact Bool.eq_false_of_not_eq_true fun htrue => (hends htrue).elim hstop hsrcFail

/-- A byte is answered in a begun session only. -/
theorem started_of_deliver_byte {s t : State} {b : Byte} {now : Time} (h : deliver (.byte b now) s = .next t) :
    s.started = true := by
  obtain ⟨i, hst, -⟩ := deliver_next_cases h
  simpa using hst

theorem deliver_stop {s : State} (hst : s.started = true) (hh : s.halted = false) :
    deliver .stop s = .next (s.clearOut.endSession false) := by
  have hi : decodeInput s.ctx .stop = .ok .stop := by simp [decodeInput, hh]
  exact (deliver_eq_exec (.inl hst) hi).trans (exec_stop_eq (s := s.clearOut) hh)

/-- Settles O56: two steps, the byte's first; or the one step of the failed source. -/
theorem coincidingByteIsCountedBeforeStop : Obligations.CoincidingByteIsCountedBeforeStop := by
  unfold Obligations.CoincidingByteIsCountedBeforeStop
  intro s t p hh hrst hrx
  refine ⟨fun hsrc hstop hd => ?_, fun hsrc => cycle_of_single ?_ s⟩
  · have hpair : pinInputs (controlWord p) p.rxData p.now = [.byte p.rxData p.now, .stop] := by
      simp [pinInputs_controlWord, hrst, hsrc, hstop, hrx]
    have hst := deliver_started (started_of_deliver_byte hd) hd
    rw [cycle_of_pair hpair hd (deliver_stop hst (deliver_byte_running hh hd))]
    simp [State.endSession, State.emit, State.clearOut]
  · simp [pinInputs_controlWord, hrst, hsrc]

/-! ### The ports after a step (R31, R35) -/

theorem sampleStrobe_iff (out : List Output) : sampleStrobe out = true ↔ ∃ r, .sampleDecoded r ∈ out := by
  rw [sampleStrobe, List.any_eq_true]
  constructor
  · rintro ⟨o, ho, h⟩
    cases o with
    | sampleDecoded r => exact ⟨r, ho⟩
    | checksumError | lost | summary => cases h
  · exact fun ⟨r, hr⟩ => ⟨_, hr, rfl⟩

theorem checksumStrobe_iff (out : List Output) : checksumStrobe out = true ↔ .checksumError ∈ out := by
  rw [checksumStrobe, List.any_eq_true]
  constructor
  · rintro ⟨o, ho, h⟩
    cases o with
    | checksumError => exact ho
    | sampleDecoded | lost | summary => cases h
  · exact fun h => ⟨_, h, rfl⟩

theorem lostStrobe_iff (out : List Output) : lostStrobe out = true ↔ ∃ n, .lost n ∈ out := by
  rw [lostStrobe, List.any_eq_true]
  constructor
  · rintro ⟨o, ho, h⟩
    cases o with
    | lost n => exact ⟨n, ho⟩
    | sampleDecoded | checksumError | summary => cases h
  · exact fun ⟨n, hn⟩ => ⟨_, hn, rfl⟩

theorem summaryStrobe_iff (out : List Output) : summaryStrobe out = true ↔ ∃ v l f, .summary v l f ∈ out := by
  rw [summaryStrobe, List.any_eq_true]
  constructor
  · rintro ⟨o, ho, h⟩
    cases o with
    | summary v l f => exact ⟨v, l, f, ho⟩
    | sampleDecoded | checksumError | lost => cases h
  · exact fun ⟨v, l, f, hs⟩ => ⟨_, hs, rfl⟩

/-- Without a summary strobe the totals ports show the state's totals. -/
theorem totalsShown_of_no_summary (s : State) {shown : List Output} (h : summaryStrobe shown = false) :
    totalsShown s shown = (s.totalValid, s.totalLost) := by
  rcases totalsShown_cases s shown with ⟨-, ht⟩ | ⟨v, l, f, hmem, -⟩
  · exact ht
  · exact absurd ((summaryStrobe_iff shown).2 ⟨v, l, f, hmem⟩) (by simp [h])

/-- A summary among the outputs is counted. -/
theorem summaryCount_pos {v l : Total} {f : Bool} {outs : List Output} (h : .summary v l f ∈ outs) :
    0 < summaryCount outs := by
  obtain ⟨a, b, rfl⟩ := List.append_of_mem h
  rw [summaryCount_append, summaryCount]
  omega

/-- The one summary of the outputs is what the totals ports show. -/
theorem totalsShown_of_summary (s : State) {v l : Total} {f : Bool} {outs : List Output}
    (hone : summaryCount outs ≤ 1) (h : .summary v l f ∈ outs) : totalsShown s outs = (v, l) := by
  induction outs with
  | nil => cases h
  | cons o outs ih =>
    cases o with
    | summary v' l' f' =>
      rcases List.mem_cons.1 h with heq | hmem
      · cases heq
        rfl
      · have hpos := summaryCount_pos hmem
        simp only [summaryCount] at hone
        omega
    | sampleDecoded | checksumError | lost => exact ih hone (by simpa using h)

/-- What the ports show after one step: each datum beside its strobe and nothing else, the strobes that exclude each
other, and the totals, a summary's being the state's. -/
def portsShowStep (t : State) : Prop :=
  (∀ r, (ports t).sample = some r ↔ .sampleDecoded r ∈ t.out) ∧
  (∀ n, (ports t).lostN = some n ↔ .lost n ∈ t.out) ∧
  ((ports t).lostValid = true → (ports t).sampleValid = true) ∧
  ((ports t).cksumErr = true → (ports t).sampleValid = false ∧ (ports t).summaryValid = false) ∧
  (ports t).totalValid = t.totalValid ∧ (ports t).totalLost = t.totalLost ∧
  (∀ v l f, .summary v l f ∈ t.out →
    (ports t).totalValid = v ∧ (ports t).totalLost = l ∧ (ports t).halted = true ∧ (ports t).sampleValid = false)

theorem portsShowStep_of_silent {t : State} (out : t.out = []) : portsShowStep t := by
  simp [portsShowStep, ports, portsShowing, out, sampleOf, lostOf, lostStrobe, checksumStrobe, totalsShown]

theorem portsShowStep_of_report {s t : State} (h : StepReport s t) : portsShowStep t := by
  cases h with
  | silent out => exact portsShowStep_of_silent out
  | checksumError out =>
    simp [portsShowStep, ports, portsShowing, out, sampleOf, lostOf, lostStrobe, sampleStrobe, summaryStrobe,
      totalsShown]
  | sample q r out =>
    cases he : s.exp with
    | none =>
      simp [portsShowStep, ports, portsShowing, out, he, lossReport, sampleOf, lostOf, lostStrobe, checksumStrobe,
        totalsShown, eq_comm (a := r)]
    | some e =>
      by_cases hq : q = e <;>
        simp [portsShowStep, ports, portsShowing, out, he, hq, lossReport, sampleOf, lostOf, lostStrobe, sampleStrobe,
          checksumStrobe, totalsShown, eq_comm (a := r), eq_comm (a := gap8 q e)]
  | summary failed out loss running ended =>
    obtain ⟨-, hvalid, hlost, -⟩ := loss
    have hone (v l f) (h : .summary v l f ∈ t.out) : v = s.totalValid ∧ l = s.totalLost ∧ f = failed := by
      simpa [out] using h
    refine ⟨?_, ?_, ?_, ?_, ?_, ?_, fun v l f h => ?_⟩
    · simp [ports, portsShowing, out, sampleOf]
    · simp [ports, portsShowing, out, lostOf]
    · simp [ports, portsShowing, out, lostStrobe]
    · simp [ports, portsShowing, out, checksumStrobe]
    · simp [ports, portsShowing, out, totalsShown, hvalid]
    · simp [ports, portsShowing, out, totalsShown, hlost]
    · obtain ⟨rfl, rfl, -⟩ := hone v l f h
      simp [ports, portsShowing, out, totalsShown, ended, sampleStrobe]

/-- Every step's ports: Reset reports nothing, any other input makes one of the four reports. -/
theorem portsShowStep_of_step {s t : State} (h : step s = .next t) : portsShowStep t := by
  change deliver (nextInput s) (consume s) = .next t at h
  by_cases hx : nextInput s = .reset
  · rw [hx, deliver_reset] at h
    cases h
    exact portsShowStep_of_silent rfl
  · exact portsShowStep_of_report (deliver_report hx h)

/-! ### A run of cycles (R36) -/

/-- A cycle that answers is the run of its inputs, the outputs of all of them in the state. -/
theorem cycle_next_cases {p : Pins} {s u : State} (h : cycle p s = .next u) :
    ∃ t outs, runInputs s (pinInputs (controlWord p) p.rxData p.now) = .next (t, outs) ∧
      u = { t with out := outs } := by
  unfold cycle at h
  split at h
  · next t outs hr => exact ⟨t, outs, hr, (Host.Outcome.next.inj h).symm⟩
  · cases h
  · cases h

/-- The inputs of a cycle are one Reset, or hold none. -/
theorem pinInputs_reset_cases (p : Pins) :
    pinInputs (controlWord p) p.rxData p.now = [.reset] ∨
      ∀ x ∈ pinInputs (controlWord p) p.rxData p.now, x ≠ .reset := by
  rw [pinInputs_controlWord]
  cases p.rst <;> cases p.srcErr <;> cases p.stop <;> cases p.rxValid <;> simp

/-- A cycle reports at most one summary. -/
theorem cycle_summaryCount {p : Pins} {s u : State} (h : cycle p s = .next u) : summaryCount u.out ≤ 1 := by
  rcases pinInputs_reset_cases p with hreset | hrest
  · rw [cycle_of_single hreset, deliver_reset] at h
    cases h
    exact Nat.zero_le 1
  · obtain ⟨t, outs, hr, rfl⟩ := cycle_next_cases h
    exact (runInputs_summaryFollows hrest hr).1

/-- There is a state after each cycle, and its outputs hold at most one summary. -/
theorem runCycles_states {ps : List Pins} {s : State} {after : List State} (h : runCycles s ps = .next after) :
    after.length = ps.length ∧ ∀ u ∈ after, summaryCount u.out ≤ 1 := by
  induction ps generalizing s after with
  | nil =>
    cases h
    exact ⟨rfl, nofun⟩
  | cons p ps ih =>
    obtain ⟨t, after', hc, hr, rfl⟩ := runCycles_cons_cases h
    obtain ⟨hlen, hone⟩ := ih hr
    exact ⟨congrArg (· + 1) hlen, List.forall_mem_cons.2 ⟨cycle_summaryCount hc, hone⟩⟩

/-- Before the latency has passed the strobes are low. -/
theorem portsAt_of_lt {latency k : Nat} (hk : k < latency) {after : List State} {t : State}
    (ht : after[k]? = some t) : portsAt latency after k = some (portsShowing t []) := by
  rw [portsAt, ht, shownAt_of_lt hk]
  rfl

/-- The strobes show the outputs of the cycle `latency` cycles earlier. -/
theorem portsAt_add {latency j : Nat} {after : List State} {t u : State} (ht : after[j + latency]? = some t)
    (hu : after[j]? = some u) : portsAt latency after (j + latency) = some (portsShowing t u.out) := by
  rw [portsAt, ht, shownAt_add, List.getElem?_map, hu]
  rfl

/-- Without latency the strobes show the outputs of the cycle itself. -/
theorem portsAt_zero (after : List State) (k : Nat) : portsAt 0 after k = (after[k]?).map ports := by
  cases ht : after[k]? with
  | none => rw [portsAt, ht, Option.map_none, Option.map_none]
  | some t => exact portsAt_add (latency := 0) ht ht

/-- The totals ports without a summary strobe, whichever outputs the strobes show. -/
theorem portsShowing_totals {s : State} {shown : List Output} (h : (portsShowing s shown).summaryValid = false) :
    (portsShowing s shown).totalValid = s.totalValid ∧ (portsShowing s shown).totalLost = s.totalLost := by
  have htotals := totalsShown_of_no_summary s h
  exact ⟨congrArg Prod.fst htotals, congrArg Prod.snd htotals⟩

/-- The totals ports beside the strobe of the one summary shown. -/
theorem portsShowing_summary (s : State) {v l : Total} {f : Bool} {shown : List Output}
    (hone : summaryCount shown ≤ 1) (h : .summary v l f ∈ shown) :
    (portsShowing s shown).summaryValid = true ∧ (portsShowing s shown).totalValid = v ∧
      (portsShowing s shown).totalLost = l := by
  have htotals := totalsShown_of_summary s hone h
  exact ⟨(summaryStrobe_iff shown).2 ⟨v, l, f, h⟩, congrArg Prod.fst htotals, congrArg Prod.snd htotals⟩

/-- Settles O57: any state's ports by its strobes, one step's by its report, a run's by what the strobes show. -/
theorem portsAfterAStep : Obligations.PortsAfterAStep := by
  unfold Obligations.PortsAfterAStep
  refine ⟨fun t => ⟨rfl, sampleStrobe_iff t.out, checksumStrobe_iff t.out, lostStrobe_iff t.out,
      summaryStrobe_iff t.out, ?_, portsShowing_totals, rfl, rfl⟩,
    fun s t => portsShowStep_of_step, fun latency s ps after h => ?_, fun after k => rfl⟩
  · cases hs : t.st <;> simp [ports, portsShowing, syncBit, hs]
  · obtain ⟨hlen, hone⟩ := runCycles_states h
    refine ⟨hlen, fun k t ht => ⟨fun hk => portsAt_of_lt hk ht, fun j u hu hk => ?_⟩, portsAt_zero after⟩
    subst hk
    exact ⟨_, portsAt_add ht hu, rfl, rfl, rfl, rfl, rfl, rfl, rfl, rfl, rfl, rfl, portsShowing_totals,
      fun v l f => portsShowing_summary t (hone u (List.mem_of_getElem? hu))⟩

end Sys2Proof.Machine
end

section
/-! The integer arithmetic (00_scope.md section 6), what the checksum misses (70_reset_and_hazards.md), the fields of
the frame picture (30_encoding.md section 1), and the boundary: the register forms (10_state.md) and the two sinks
(43_sink_boundary.md). -/

namespace Sys2Proof.Machine

/-! ### Totals and intervals (D14, D7) -/

/-- ADD64 as an integer. -/
theorem toNat_add64 (a : Total) (n : Nat) : (add64 a n).toNat = (a.toNat + n) % 2 ^ 64 := by
  rw [add64, BitVec.toNat_ofNat]

/-- Settles O5: the sum modulo 2^64, which is the sum below the wrap. -/
theorem totalsWrapModulo64Bits : Obligations.TotalsWrapModulo64Bits := by
  unfold Obligations.TotalsWrapModulo64Bits
  exact fun a n => ⟨toNat_add64 a n, fun h => (toNat_add64 a n).trans (Nat.mod_eq_of_lt h)⟩

/-- The interval as an integer, at every width. -/
theorem toNat_intervalSince (a p : Time) :
    ((intervalSince a p).toNat : Int) = ((a.toNat : Int) - p.toNat) % 2 ^ Config.TSW := by
  have hpos : (0 : Int) ≤ ((a.toNat : Int) - p.toNat) % 2 ^ Config.TSW := Int.emod_nonneg _ (by positivity)
  rw [intervalSince, BitVec.toNat_ofInt]
  push_cast
  exact Int.toNat_of_nonneg hpos

/-- Settles O6: the difference modulo the width; of two times below `2^TSW` it wraps at most once. -/
theorem intervalIsDifferenceModuloWidth : Obligations.IntervalIsDifferenceModuloWidth := by
  unfold Obligations.IntervalIsDifferenceModuloWidth
  intro a p
  refine ⟨toNat_intervalSince a p, fun h => ?_, fun h => ?_⟩
  · rw [intervalSince_eq_sub, BitVec.toNat_sub_of_le h]
  · rw [intervalSince_eq_sub, BitVec.toNat_sub_of_lt h]

/-! ### Gaps (41_tracker_ops.md section 4) -/

/-- The gap of `m` lost frames is `m` modulo 256. -/
theorem toNat_gap8_add (e : Byte) (m : Nat) : (gap8 (BitVec.ofNat 8 (e.toNat + m)) e).toNat = m % 256 := by
  have hadd : BitVec.ofNat 8 (e.toNat + m) = e + BitVec.ofNat 8 m := by
    rw [BitVec.ofNat_add, BitVec.ofNat_toNat, BitVec.setWidth_eq]
  rw [gap8_eq_sub, hadd, BitVec.add_comm, BitVec.add_sub_cancel, BitVec.toNat_ofNat]

/-- Settles O7: GAP8 and INC8 as subtraction and addition of bytes. -/
theorem gapArithmeticOfLossRepeatAndSwap : Obligations.GapArithmeticOfLossRepeatAndSwap := by
  unfold Obligations.GapArithmeticOfLossRepeatAndSwap
  have hfirst (e : Byte) : gap8 (e + 1) e = 1 := by rw [← inc8_eq_add, gap8_inc8]
  have hsecond (e : Byte) : gap8 e (inc8 (e + 1)) = 254 := by
    rw [gap8_eq_sub, inc8_eq_add]
    bv_omega
  have hthird (e : Byte) : gap8 (e + 2) (inc8 e) = 1 := by
    rw [gap8_eq_sub, inc8_eq_add]
    bv_omega
  refine ⟨toNat_gap8_add, fun e => ⟨?_, ?_⟩, fun e => ⟨hfirst e, hsecond e, hthird e, ?_⟩⟩
  · rw [gap8_eq_sub]
    bv_omega
  · rw [inc8_eq_add, BitVec.sub_add_cancel]
  · rw [hfirst, hsecond, hthird]
    rfl

/-! ### What the checksum misses -/

/-- The checksum is the sum of the bytes as bytes. -/
theorem cksum_eq_sum (p : List Byte) : cksum p = p.sum := by
  induction p with
  | nil => rfl
  | cons b bs ih =>
    rw [List.sum_cons, ← ih, cksum, cksum, List.map_cons, List.sum_cons, BitVec.ofNat_add, BitVec.ofNat_toNat,
      BitVec.setWidth_eq]

/-- Settles O8: a sum of bytes does not depend on their order, and two changes that cancel do not show in it. -/
theorem checksumMissesReorderingAndCancellation : Obligations.ChecksumMissesReorderingAndCancellation := by
  unfold Obligations.ChecksumMissesReorderingAndCancellation
  refine ⟨fun p q h => ?_, fun a b d p q r => ?_⟩
  · rw [cksum_eq_sum, cksum_eq_sum, h.sum_eq]
  · simp only [cksum_eq_sum, List.sum_append, List.sum_cons]
    abel

/-! ### The frame picture (R50) -/

/-- The picture as an integer: 56 bits hold seven bytes. -/
theorem toNat_framePicture (b0 b1 b2 b3 b4 b5 b6 : Byte) :
    (framePicture b0 b1 b2 b3 b4 b5 b6).toNat =
      (((((b0.toNat * 256 + b1.toNat) * 256 + b2.toNat) * 256 + b3.toNat) * 256 + b4.toNat) * 256 + b5.toNat) * 256
        + b6.toNat := by
  rw [framePicture, BitVec.toNat_ofNat]
  omega

/-- The byte of a field. -/
def fieldByte (b0 b1 b2 b3 b4 b5 b6 : Byte) : FrameField → Byte
  | .marker => b0
  | .counter => b1
  | .ch1Lo => b2
  | .ch1Hi => b3
  | .ch2Lo => b4
  | .ch2Hi => b5
  | .checksum => b6

/-- Eight bits of the picture from a field's lowest bit are that field. -/
theorem extractLsb'_framePicture (b0 b1 b2 b3 b4 b5 b6 : Byte) (f : FrameField) :
    (framePicture b0 b1 b2 b3 b4 b5 b6).extractLsb' (fieldLow f) 8 = fieldByte b0 b1 b2 b3 b4 b5 b6 f := by
  apply BitVec.eq_of_toNat_eq
  rw [BitVec.extractLsb'_toNat, Nat.shiftRight_eq_div_pow, toNat_framePicture]
  cases f <;> simp only [fieldLow, fieldOffset, fieldByte] <;> omega

/-- The highest bit of a field in the picture is bit 7 of its byte. -/
theorem getLsbD_framePicture (b0 b1 b2 b3 b4 b5 b6 : Byte) (f : FrameField) :
    (framePicture b0 b1 b2 b3 b4 b5 b6).getLsbD (fieldLow f + 7) = (fieldByte b0 b1 b2 b3 b4 b5 b6 f).getLsbD 7 := by
  rw [← extractLsb'_framePicture, BitVec.getLsbD_extractLsb']
  rfl

/-- Settles O9: each field by its eight bits; a channel's sign is the highest bit of its high byte. -/
theorem frameFieldsInThePicture : Obligations.FrameFieldsInThePicture := by
  unfold Obligations.FrameFieldsInThePicture
  intro b0 b1 b2 b3 b4 b5 b6
  refine ⟨fun f => ?_, ?_, ?_⟩
  · rw [extractLsb'_framePicture]
    cases f <;> rfl
  · exact (getLsbD_framePicture b0 b1 b2 b3 b4 b5 b6 .ch1Hi).trans (msb_s16 b2 b3).symm
  · exact (getLsbD_framePicture b0 b1 b2 b3 b4 b5 b6 .ch2Hi).trans (msb_s16 b4 b5).symm

/-! ### The register forms (D11) -/

theorem length_regBufList (r : RegBuf) : (regBufList r).length = r.cnt.val := by
  have h := r.cnt.isLt
  rw [regBufList, List.length_take, Vector.length_toList]
  omega

/-- A register below the count is the list's element. -/
theorem getElem?_regBufList {r : RegBuf} {i : Nat} (hi : i < r.cnt.val) :
    (regBufList r)[i]? = r.regs.toList[i]? := by
  rw [regBufList, List.getElem?_take_of_lt hi]

/-- Only the registers below the count are read. -/
theorem regBufList_congr {r u : RegBuf} (hcnt : r.cnt = u.cnt)
    (hregs : ∀ i, i < r.cnt.val → r.regs.toList[i]? = u.regs.toList[i]?) : regBufList r = regBufList u := by
  apply List.ext_getElem?
  intro i
  by_cases hi : i < r.cnt.val
  · rw [getElem?_regBufList hi, getElem?_regBufList (hcnt ▸ hi), hregs i hi]
  · have hr : (regBufList r).length ≤ i := by rw [length_regBufList]; omega
    have hu : (regBufList u).length ≤ i := by rw [length_regBufList, ← hcnt]; omega
    rw [List.getElem?_eq_none hr, List.getElem?_eq_none hu]

/-- An append to a buffer that is not full writes the register at the count. -/
theorem regBufList_append {r : RegBuf} (h : r.cnt.val < 6) (b : Byte) :
    regBufList (regBufAppend r b) = regBufList r ++ [b] := by
  have hlen : r.regs.toList.length = 6 := Vector.length_toList
  simp only [regBufAppend, h, dif_pos, regBufList, Vector.toList_set]
  rw [List.take_add_one, List.take_set_of_le le_rfl, List.getElem?_set_self (h.trans_eq hlen.symm)]
  rfl

/-- Six registers hold any list of at most six bytes. -/
theorem exists_regBufList {l : List Byte} (hl : l.length ≤ 6) : ∃ r : RegBuf, regBufList r = l := by
  have hpad : (l ++ List.replicate (6 - l.length) 0).toArray.size = 6 := by simp; omega
  refine ⟨{ regs := ⟨_, hpad⟩, cnt := ⟨l.length, by omega⟩ }, ?_⟩
  exact List.take_left

/-- Settles O60: clear, append and reading of the registers; the valid bit and the value of the expectation. -/
theorem registerFormsRefineTheState : Obligations.RegisterFormsRefineTheState := by
  unfold Obligations.RegisterFormsRefineTheState
  refine ⟨fun r => rfl, fun r b h => regBufList_append h b, length_regBufList, fun r i hi6 hi => ?_,
    fun r u => regBufList_congr, fun v => rfl, fun v => rfl, fun l => exists_regBufList, fun o => ?_⟩
  · rw [getElem?_regBufList hi, Vector.getElem?_toList, Vector.getElem?_eq_getElem hi6]
  · cases o with
    | none => exact ⟨{ expValid := false, expVal := 0 }, rfl⟩
    | some v => exact ⟨{ expValid := true, expVal := v }, rfl⟩

/-! ### The sinks (R86 to R88) -/

/-- SCALE is one part in 32. -/
theorem scale_eq_div (v : Sample) : scale v = (v.toInt : Rat) / 32 := by
  rw [scale, Config.scaleFactor]
  ring

/-- Times 32 the count is back. -/
theorem scale_mul (v : Sample) : scale v * 32 = (v.toInt : Rat) := by
  rw [scale_eq_div]
  ring

/-- A signed count of sixteen bits scaled. -/
theorem scale_range (v : Sample) : -1024 ≤ scale v ∧ scale v ≤ 1023 + 31 / 32 := by
  have hlo : (-32768 : Rat) ≤ v.toInt := by exact_mod_cast BitVec.le_toInt v
  have hhi : (v.toInt : Rat) ≤ 32767 := by exact_mod_cast Int.le_of_lt_add_one (BitVec.toInt_lt (x := v))
  rw [scale_eq_div]
  constructor <;> linarith

/-- Settles O58: the scale undone gives the count, and a count has one word. -/
theorem scaleIsExactAndInvertible : Obligations.ScaleIsExactAndInvertible := by
  unfold Obligations.ScaleIsExactAndInvertible
  refine ⟨fun v => ⟨scale_eq_div v, scale_mul v, (scale_range v).1, (scale_range v).2⟩, fun v w h => ?_⟩
  have hint : (v.toInt : Rat) = w.toInt := by rw [← scale_mul v, ← scale_mul w, h]
  exact BitVec.eq_of_toInt_eq (by exact_mod_cast hint)

/-- Settles O59: the console's fields are the record's; the stream's, times 32, are the same counts. -/
theorem sinksShowRawAndScaledCounts : Obligations.SinksShowRawAndScaledCounts := by
  unfold Obligations.SinksShowRawAndScaledCounts
  intro τ r ts
  refine ⟨rfl, rfl, rfl, ?_, rfl⟩
  simp only [streamPublication, consoleFields, List.map_cons, List.map_nil, scale_mul]

end Sys2Proof.Machine
end
